-- ==== Sys2Proof/Word.lean ====
section
/-! DEFINITION. The words of the DHT22 Protocol Engine: the byte, the two encoded forms of an
instruction's bits (30_encoding.md R70, R73) and the five-byte Raw Frame (00_scope.md section 6). -/

namespace Sys2Proof

/-- An 8-bit host register, or one byte of a frame (20_memory.md R50). -/
abbrev Byte := BitVec 8

/-- The 12-bit host bus word (30_encoding.md R70). -/
abbrev BusWord := BitVec 12

/-- The 4-bit state code (30_encoding.md R73). -/
abbrev StateCode := BitVec 4

/-- A logic level or a single wire: High is `true`, Low is `false` (30_encoding.md R76). -/
abbrev Level := Bool

/-- Five bytes in the order the sensor sends them: humidity-high, humidity-low,
temperature-high, temperature-low, checksum (20_memory.md R52). -/
structure Frame where
  b0 : Byte
  b1 : Byte
  b2 : Byte
  b3 : Byte
  b4 : Byte
  deriving DecidableEq, Repr, Inhabited

/-- Five bytes 0x00, the value of FRAME and of asm at reset and after an accepted START. -/
abbrev Frame.zero : Frame := ⟨0, 0, 0, 0, 0⟩

end Sys2Proof
end

