-- ==== Sys2Proof/Syntax.lean ====
section
/-! DEFINITION. The instruction set (00_scope.md R1): the host operations of 45_host_interface.md and the
micro-operations of 42_transaction_fsm.md and 43_data_phase.md, one constructor per row of
spec/opcode_table.json, in the table's order. -/

namespace Sys2Proof

/-- The eight host registers of 20_memory.md R51, in address order. -/
inductive HostReg where
  | ctrl | status | frame0 | frame1 | frame2 | frame3 | frame4 | state
  deriving DecidableEq, Repr

/-- An instruction of the DPE. A host operation carries its `wdata` field whole, a reserved state code
above 11 carries the code. -/
inductive Instr where
  /-- START: `wr CTRL, v` with `v[0] = 1` (R200). -/
  | start (wdata : Byte)
  /-- WR_CTRL_NOP: `wr CTRL, v` with `v[0] = 0` (R201). -/
  | wrCtrlNop (wdata : Byte)
  /-- WR_STATUS (R202). -/
  | wrStatus (wdata : Byte)
  /-- WR_FRAME0 (R202). -/
  | wrFrame0 (wdata : Byte)
  /-- WR_FRAME1 (R202). -/
  | wrFrame1 (wdata : Byte)
  /-- WR_FRAME2 (R202). -/
  | wrFrame2 (wdata : Byte)
  /-- WR_FRAME3 (R202). -/
  | wrFrame3 (wdata : Byte)
  /-- WR_FRAME4 (R202). -/
  | wrFrame4 (wdata : Byte)
  /-- WR_STATE (R202). -/
  | wrState (wdata : Byte)
  /-- RD_CTRL (R203). -/
  | rdCtrl (wdata : Byte)
  /-- RD_STATUS (R204). -/
  | rdStatus (wdata : Byte)
  /-- RD_FRAME0 (R205). -/
  | rdFrame0 (wdata : Byte)
  /-- RD_FRAME1 (R206). -/
  | rdFrame1 (wdata : Byte)
  /-- RD_FRAME2 (R207). -/
  | rdFrame2 (wdata : Byte)
  /-- RD_FRAME3 (R208). -/
  | rdFrame3 (wdata : Byte)
  /-- RD_FRAME4 (R209). -/
  | rdFrame4 (wdata : Byte)
  /-- RD_STATE (R210). -/
  | rdState (wdata : Byte)
  /-- IDLE, code 0 (R121). -/
  | idle
  /-- ARM, code 1 (R122). -/
  | arm
  /-- BUS_IDLE, code 2 (R123). -/
  | busIdle
  /-- START_LOW, code 3 (R124). -/
  | startLow
  /-- RELEASE, code 4 (R125). -/
  | release
  /-- ACK_H1, code 5 (R126). -/
  | ackH1
  /-- ACK_L, code 6 (R127). -/
  | ackL
  /-- ACK_H2, code 7 (R128). -/
  | ackH2
  /-- BIT_L, code 8 (R150). -/
  | bitL
  /-- BIT_H, code 9 (R151). -/
  | bitH
  /-- CHECK, code 10 (R154). -/
  | check
  /-- RESERVED_11, code 11 (R129). -/
  | reserved11
  /-- RESERVED_12_15, codes 12 to 15 (R129). -/
  | reserved1215 (code : StateCode)
  deriving DecidableEq, Repr

/-- The bits of one instruction: a host bus word (R70) or a state code (R73). -/
inductive Code where
  | host (w : BusWord)
  | state (c : StateCode)
  deriving DecidableEq, Repr

end Sys2Proof
end

