-- ==== Sys2Proof/WellFormed.lean ====
section
/-! DEFINITION. Which instructions are well formed: those some bits encode. The operand widths are in the
types; what remains are the bits an opcode-table row fixes inside an operand field. -/

namespace Sys2Proof

/-- `wdata[0]` tells START from WR_CTRL_NOP (30_encoding.md R72), and RESERVED_12_15 holds a code of
12 to 15 (R73). No other row fixes a bit of its operand (R71). -/
def Instr.wf : Instr → Bool
  | .start v => v.getLsbD 0
  | .wrCtrlNop v => !v.getLsbD 0
  | .reserved1215 c => decide (12 ≤ c.toNat)
  | .wrStatus _ | .wrFrame0 _ | .wrFrame1 _ | .wrFrame2 _ | .wrFrame3 _ | .wrFrame4 _ | .wrState _ => true
  | .rdCtrl _ | .rdStatus _ | .rdFrame0 _ | .rdFrame1 _ | .rdFrame2 _ | .rdFrame3 _ | .rdFrame4 _ => true
  | .rdState _ => true
  | .idle | .arm | .busIdle | .startLow | .release | .ackH1 | .ackL | .ackH2 => true
  | .bitL | .bitH | .check | .reserved11 => true

end Sys2Proof
end

