-- ==== Sys2Proof/Decode.lean ====
section
/-! DEFINITION. Decoding (30_encoding.md R70 to R73) and encoding. Both decodes are total: every bus word
and every state code names one instruction (R72, R73). Over bytes the decoder rejects by name what is no
instruction's bits. -/

namespace Sys2Proof

/-! ## Fields and register numbers -/

/-- `w[11]`, 1 for a write (R70). -/
def fieldWe (w : BusWord) : Bool := w.getLsbD 11

/-- `w[10:8]`, the register address (R70). -/
def fieldAddr (w : BusWord) : BitVec 3 := w.extractLsb' 8 3

/-- `w[7:0]`, the byte written (R70). -/
def fieldWdata (w : BusWord) : Byte := w.extractLsb' 0 8

/-- The register at an address (20_memory.md R51): every address is defined. -/
def HostReg.ofAddr (a : BitVec 3) : HostReg :=
  match a.toNat with
  | 0 => .ctrl
  | 1 => .status
  | 2 => .frame0
  | 3 => .frame1
  | 4 => .frame2
  | 5 => .frame3
  | 6 => .frame4
  | _ => .state

/-- The address of a register (20_memory.md R51). -/
def HostReg.addr : HostReg → BitVec 3
  | .ctrl => 0
  | .status => 1
  | .frame0 => 2
  | .frame1 => 3
  | .frame2 => 4
  | .frame3 => 5
  | .frame4 => 6
  | .state => 7

/-! ## Decoding -/

/-- The write of `v` to a register (R72). A write to CTRL is a START where `v[0] = 1`. -/
def decodeWrite (v : Byte) : HostReg → Instr
  | .ctrl => if v.getLsbD 0 then .start v else .wrCtrlNop v
  | .status => .wrStatus v
  | .frame0 => .wrFrame0 v
  | .frame1 => .wrFrame1 v
  | .frame2 => .wrFrame2 v
  | .frame3 => .wrFrame3 v
  | .frame4 => .wrFrame4 v
  | .state => .wrState v

/-- The read of a register (R72); `wdata` is carried and ignored (R71). -/
def decodeRead (v : Byte) : HostReg → Instr
  | .ctrl => .rdCtrl v
  | .status => .rdStatus v
  | .frame0 => .rdFrame0 v
  | .frame1 => .rdFrame1 v
  | .frame2 => .rdFrame2 v
  | .frame3 => .rdFrame3 v
  | .frame4 => .rdFrame4 v
  | .state => .rdState v

/-- Host operation decode (R72). -/
def decodeHost (w : BusWord) : Instr :=
  if fieldWe w then decodeWrite (fieldWdata w) (HostReg.ofAddr (fieldAddr w))
  else decodeRead (fieldWdata w) (HostReg.ofAddr (fieldAddr w))

/-- State code decode (R73). -/
def decodeState (c : StateCode) : Instr :=
  match c.toNat with
  | 0 => .idle
  | 1 => .arm
  | 2 => .busIdle
  | 3 => .startLow
  | 4 => .release
  | 5 => .ackH1
  | 6 => .ackL
  | 7 => .ackH2
  | 8 => .bitL
  | 9 => .bitH
  | 10 => .check
  | 11 => .reserved11
  | _ => .reserved1215 c

/-- Decode either encoded form. -/
def decode : Code → Instr
  | .host w => decodeHost w
  | .state c => decodeState c

/-! ## Words in bytes

The DPE fetches no instruction (20_memory.md R55, R65), so its bits lie in no memory. Where bytes are
asked for, a state code is one byte and a bus word two bytes, low byte first, and the bits above the
word's own must be 0. DESIGN CHOICE, log entry 12. -/

/-- Why bytes are no instruction's bits. -/
inductive DecodeError where
  /-- Neither one byte (a state code) nor two (a bus word). -/
  | wrongLength
  /-- A bit above the 4 of a state code or the 12 of a bus word is set. -/
  | bitsAboveWord
  deriving DecidableEq, Repr

/-- The encoded form in a list of bytes. -/
def codeOfBytes : List Byte → Except DecodeError Code
  | [b] => if b.toNat < 16 then .ok (.state (b.extractLsb' 0 4)) else .error .bitsAboveWord
  | [lo, hi] =>
    if hi.toNat < 16 then .ok (.host (hi.extractLsb' 0 4 ++ lo)) else .error .bitsAboveWord
  | _ => .error .wrongLength

/-- Decode a list of bytes. -/
def decodeBytes (bs : List Byte) : Except DecodeError Instr :=
  match codeOfBytes bs with
  | .ok c => .ok (decode c)
  | .error e => .error e

/-- The low `n` bytes of a number, lowest first. -/
def bytesOfNat : Nat → Nat → List Byte
  | 0, _ => []
  | n + 1, w => BitVec.ofNat 8 w :: bytesOfNat n (w / 256)

/-- The instruction the decoder reads from an instruction whose bits are `w` as
spec/opcode_table.json numbers them, `nbits` bits in whole bytes. -/
def decodeTableWord (nbits w : Nat) : Option Instr :=
  if w < 2 ^ nbits then
    match decodeBytes (bytesOfNat ((nbits + 7) / 8) w) with
    | .ok i => some i
    | .error _ => none
  else none

/-! ## Encoding -/

/-- The word `{we, addr, wdata}` of a bus access (R70). -/
def busWord (we : Bool) (r : HostReg) (wdata : Byte) : BusWord :=
  BitVec.ofBool we ++ r.addr ++ wdata

/-- The bits of an instruction (R70, R72, R73). -/
def encode : Instr → Code
  | .start v => .host (busWord true .ctrl v)
  | .wrCtrlNop v => .host (busWord true .ctrl v)
  | .wrStatus v => .host (busWord true .status v)
  | .wrFrame0 v => .host (busWord true .frame0 v)
  | .wrFrame1 v => .host (busWord true .frame1 v)
  | .wrFrame2 v => .host (busWord true .frame2 v)
  | .wrFrame3 v => .host (busWord true .frame3 v)
  | .wrFrame4 v => .host (busWord true .frame4 v)
  | .wrState v => .host (busWord true .state v)
  | .rdCtrl v => .host (busWord false .ctrl v)
  | .rdStatus v => .host (busWord false .status v)
  | .rdFrame0 v => .host (busWord false .frame0 v)
  | .rdFrame1 v => .host (busWord false .frame1 v)
  | .rdFrame2 v => .host (busWord false .frame2 v)
  | .rdFrame3 v => .host (busWord false .frame3 v)
  | .rdFrame4 v => .host (busWord false .frame4 v)
  | .rdState v => .host (busWord false .state v)
  | .idle => .state 0
  | .arm => .state 1
  | .busIdle => .state 2
  | .startLow => .state 3
  | .release => .state 4
  | .ackH1 => .state 5
  | .ackL => .state 6
  | .ackH2 => .state 7
  | .bitL => .state 8
  | .bitH => .state 9
  | .check => .state 10
  | .reserved11 => .state 11
  | .reserved1215 c => .state c

/-- The bytes of an encoded form (log entry 12). -/
def bytesOfCode : Code → List Byte
  | .state c => [c.zeroExtend 8]
  | .host w => [w.extractLsb' 0 8, (w.extractLsb' 8 4).zeroExtend 8]

/-- The bytes of an instruction. -/
def encodeBytes (i : Instr) : List Byte := bytesOfCode (encode i)

/-! ## The opcode table

The rows of spec/opcode_table.json: a word belongs to a row where it agrees with `pattern` on the bits of
`mask`. The decoder does not read them; the laws and the obligations hold it against them. -/

/-- The two formats of the table. -/
inductive Format where
  | host
  | state
  deriving DecidableEq, Repr

/-- A row of spec/opcode_table.json. -/
structure Row where
  mnemonic : String
  format : Format
  pattern : Nat
  mask : Nat
  deriving DecidableEq, Repr

/-- The row of an instruction (the columns "match" and "mask" of spec/opcode_table.json). -/
def rowOf : Instr → Row
  | .start _ => ⟨"START", .host, 0x801, 0xF01⟩
  | .wrCtrlNop _ => ⟨"WR_CTRL_NOP", .host, 0x800, 0xF01⟩
  | .wrStatus _ => ⟨"WR_STATUS", .host, 0x900, 0xF00⟩
  | .wrFrame0 _ => ⟨"WR_FRAME0", .host, 0xA00, 0xF00⟩
  | .wrFrame1 _ => ⟨"WR_FRAME1", .host, 0xB00, 0xF00⟩
  | .wrFrame2 _ => ⟨"WR_FRAME2", .host, 0xC00, 0xF00⟩
  | .wrFrame3 _ => ⟨"WR_FRAME3", .host, 0xD00, 0xF00⟩
  | .wrFrame4 _ => ⟨"WR_FRAME4", .host, 0xE00, 0xF00⟩
  | .wrState _ => ⟨"WR_STATE", .host, 0xF00, 0xF00⟩
  | .rdCtrl _ => ⟨"RD_CTRL", .host, 0x000, 0xF00⟩
  | .rdStatus _ => ⟨"RD_STATUS", .host, 0x100, 0xF00⟩
  | .rdFrame0 _ => ⟨"RD_FRAME0", .host, 0x200, 0xF00⟩
  | .rdFrame1 _ => ⟨"RD_FRAME1", .host, 0x300, 0xF00⟩
  | .rdFrame2 _ => ⟨"RD_FRAME2", .host, 0x400, 0xF00⟩
  | .rdFrame3 _ => ⟨"RD_FRAME3", .host, 0x500, 0xF00⟩
  | .rdFrame4 _ => ⟨"RD_FRAME4", .host, 0x600, 0xF00⟩
  | .rdState _ => ⟨"RD_STATE", .host, 0x700, 0xF00⟩
  | .idle => ⟨"IDLE", .state, 0x0, 0xF⟩
  | .arm => ⟨"ARM", .state, 0x1, 0xF⟩
  | .busIdle => ⟨"BUS_IDLE", .state, 0x2, 0xF⟩
  | .startLow => ⟨"START_LOW", .state, 0x3, 0xF⟩
  | .release => ⟨"RELEASE", .state, 0x4, 0xF⟩
  | .ackH1 => ⟨"ACK_H1", .state, 0x5, 0xF⟩
  | .ackL => ⟨"ACK_L", .state, 0x6, 0xF⟩
  | .ackH2 => ⟨"ACK_H2", .state, 0x7, 0xF⟩
  | .bitL => ⟨"BIT_L", .state, 0x8, 0xF⟩
  | .bitH => ⟨"BIT_H", .state, 0x9, 0xF⟩
  | .check => ⟨"CHECK", .state, 0xA, 0xF⟩
  | .reserved11 => ⟨"RESERVED_11", .state, 0xB, 0xF⟩
  | .reserved1215 _ => ⟨"RESERVED_12_15", .state, 0xC, 0xC⟩

/-- The row admits these bits: the format is the row's and the masked bits are the pattern. -/
def Row.admits (r : Row) : Code → Bool
  | .host w => decide (r.format = .host) && decide (w.toNat &&& r.mask = r.pattern)
  | .state c => decide (r.format = .state) && decide (c.toNat &&& r.mask = r.pattern)

end Sys2Proof
end

