-- ==== Sys2Proof/Config.lean ====
section
/-! DEFINITION. The parameters of 00_scope.md R7 as one configuration record, the constraints of R8
that a configuration must meet to have a meaning, and what the spec leaves open: constants without a
body, of which nothing can be proved. -/

namespace Sys2Proof

/-- The parameters of 00_scope.md R7 that have a value. -/
structure Config.Params where
  /-- TICK_US, period of the time base in microseconds. -/
  tickUs : Nat
  /-- T_TIMEOUT, per-measurement timeout in ticks. -/
  tTimeout : Nat
  /-- ACK_MIN, inclusive lower bound of the acknowledgement low and high-2 pulses. -/
  ackMin : Nat
  /-- ACK_MAX, inclusive upper bound of the same. -/
  ackMax : Nat
  /-- T_IDLE, idle-high drive time of step 1. -/
  tIdle : Nat
  /-- T_START, start-signal low drive time of step 2. -/
  tStart : Nat
  /-- T_REL, high drive time of step 3. -/
  tRel : Nat
  /-- N_BITS, bits in a frame. -/
  nBits : Nat
  /-- N_BYTES, bytes in a Raw Frame. -/
  nBytes : Nat
  /-- CNT_W, width of `cnt`. -/
  cntW : Nat
  /-- LOWDUR_W, width of `lowdur`. -/
  lowdurW : Nat
  /-- BITIDX_W, width of `bitidx`. -/
  bitidxW : Nat
  deriving DecidableEq, Repr

/-- The constraints of 00_scope.md R8, in its order. -/
def Config.Params.wf (p : Config.Params) : Bool :=
  decide (1 ≤ p.tRel) && decide (1 ≤ p.tIdle) && decide (1 ≤ p.tStart)
  && decide (p.tIdle < 2 ^ p.cntW) && decide (p.tStart < 2 ^ p.cntW)
  && decide (p.tRel < 2 ^ p.cntW) && decide (p.tTimeout + 1 < 2 ^ p.cntW)
  && decide (p.tTimeout + 1 < 2 ^ p.lowdurW)
  && decide (p.ackMin ≤ p.ackMax) && decide (p.ackMax < p.tTimeout)
  && decide (p.nBits = 8 * p.nBytes) && decide (p.nBits < 2 ^ p.bitidxW)

/-- A configuration that meets R8. "A configuration that breaks one is refused: a model must not give
it a meaning" (R8): the machine is built over this type, so no other configuration has one. -/
structure Config.Accepted extends Config.Params where
  accepted : toParams.wf = true

/-- Accept a configuration, or refuse it where it breaks R8. -/
def Config.accept (p : Config.Params) : Option Config.Accepted :=
  if h : p.wf = true then some ⟨p, h⟩ else none

/-- This hardware's values (00_scope.md R7). -/
def Config.dpeParams : Config.Params where
  tickUs := 1
  tTimeout := 200
  ackMin := 70
  ackMax := 90
  tIdle := 1000
  tStart := 1100
  tRel := 1
  nBits := 40
  nBytes := 5
  cntW := 16
  lowdurW := 8
  bitidxW := 6

/-- This hardware's configuration (R7), accepted by R8. -/
def Config.dpe : Config.Accepted := ⟨Config.dpeParams, by decide⟩

/-- FREE VALUE: `sample()` at the n-th tick that no agenda supplies (10_state.md R31: a draw from the
environment under no law; log entry 2). -/
opaque Config.freeSample : Nat → Level

/-- FREE VALUE: `avail()` at the n-th tick that no agenda supplies (10_state.md R32; log entry 2). -/
opaque Config.freeAvail : Nat → Level

/-- FREE VALUE: the assembly buffer after packing a bit at a slot index above 39, which has no byte to
address (43_data_phase.md R153 gives slots 0 to 39; no reachable state does it; log entry 7). -/
opaque Config.packBeyondFrame : Frame → Nat → Bool → Frame

/-- OPEN parameter PIN_INDEX (R7): selects the pad outside the block and has no effect inside it. -/
opaque Config.pinIndex : Nat

/-- OPEN parameter DPE_BASE (20_memory.md R60): where the platform puts the eight registers. -/
opaque Config.dpeBase : Nat

/-- OPEN parameter HOST_FLOAT (R7, 44_decoders.md R185): how the host's floating-point format rounds a
non-negative exact value. -/
opaque Config.hostFloat : ℚ → ℚ

end Sys2Proof
end

