-- ==== Sys2Proof/Machine/State.lean ====
section
/-! DEFINITION. The state of the DPE (10_state.md), its ports, and the agenda of outside events that the
model's one step function reads. Plain data throughout. -/

namespace Sys2Proof.Machine

/-- What the outside world does next (00_scope.md R14, R20): the three agents' steps and the reset input, in
their one total order (20_memory.md R62). -/
inductive Event where
  /-- A host step: one access to the bus port (10_state.md R36, 30_encoding.md R70). -/
  | host (w : BusWord)
  /-- A tick, with the environment's draws `sample()` and `avail()` (R31, R32, R34). -/
  | tick (sample avail : Level)
  /-- The reset input changes to a level (70_reset_and_hazards.md R260): `true` is asserted. -/
  | rst (asserted : Bool)
  deriving DecidableEq, Repr

/-- The machine. The first eleven fields are the state elements of 10_state.md section 2, the next four are
ports, the last two are the model's own (INVENTORY.md, State). -/
structure State where
  /-- `st`, the engine's state register and sequencer (R21). -/
  st : StateCode
  /-- `DONE` (R23). -/
  done : Bool
  /-- `RESULT` (R24). -/
  result : BitVec 3
  /-- `FRAME[0..4]` (R25). -/
  frame : Frame
  /-- `cnt` (R26). -/
  cnt : BitVec 16
  /-- `bitidx` (R27). -/
  bitidx : BitVec 6
  /-- `lowdur` (R28). -/
  lowdur : BitVec 8
  /-- `asm[0..4]` (R33). -/
  asm : Frame
  /-- `line_oe` (R29): `true` is Output. -/
  lineOe : Bool
  /-- `line_out` (R29). -/
  lineOut : Level
  /-- `line_pull` (R29), coded as in 30_encoding.md R75. -/
  linePull : BitVec 2
  /-- The level of the `rst` input (70_reset_and_hazards.md R260). -/
  rst : Bool
  /-- `line_in` at the current tick: the draw `sample()` (R31). -/
  lineIn : Level
  /-- `line_avail` at the current tick: the draw `avail()` (R32). -/
  lineAvail : Level
  /-- `rdata`: the value the latest host read returned (R36, 30_encoding.md R70; log entry 4). -/
  rdata : Byte
  /-- The outside events still to come, the next one first (log entry 1). -/
  agenda : List Event
  /-- How many free draws have been taken (log entry 2). -/
  draws : Nat
  deriving DecidableEq, Repr

/-- The reasons the machine could stop with a fault. There are none: no rule of the spec stops the machine.
Both decodes are total (30_encoding.md R72, 42_transaction_fsm.md R120), no access traps (R80, R202), and a
failed transaction is a completion (60_exceptions.md R236), a next state. -/
inductive Fault
  deriving DecidableEq, Repr

/-- The reasons an instruction could be refused. -/
inductive Refusal where
  /-- Raised by an arm of `exec` whose instruction has no meaning yet. Safe: the run ends there. No arm
  raises it now. -/
  | notModelled (mnemonic : String)
  deriving DecidableEq, Repr

/-- The machine right after reset: every state element at its value in 10_state.md R39 and `rst` released.
The agenda is empty and the ports hold the values that log entries 1 to 5 name. -/
def State.reset : State where
  st := 0
  done := false
  result := 0
  frame := Frame.zero
  cnt := 0
  bitidx := 0
  lowdur := 0
  asm := Frame.zero
  lineOe := false
  lineOut := true
  linePull := 1
  rst := false
  lineIn := true
  lineAvail := true
  rdata := 0
  agenda := []
  draws := 0

end Sys2Proof.Machine
end

