-- ==== Sys2Proof/Machine/Flags.lean ====
section
/-! DEFINITION. The codes the engine writes, the flag BUSY, the output `irq` and the status layouts
(10_state.md R22, R35; 30_encoding.md R73 to R79). -/

namespace Sys2Proof.Machine

/-! ## State codes (30_encoding.md R73) -/

def stIdle : StateCode := 0
def stArm : StateCode := 1
def stBusIdle : StateCode := 2
def stStartLow : StateCode := 3
def stRelease : StateCode := 4
def stAckH1 : StateCode := 5
def stAckL : StateCode := 6
def stAckH2 : StateCode := 7
def stBitL : StateCode := 8
def stBitH : StateCode := 9
def stCheck : StateCode := 10

/-! ## Result codes (30_encoding.md R74) -/

def codeOk : BitVec 3 := 0
def codeTimeout : BitVec 3 := 1
def codeChecksum : BitVec 3 := 2
def codeAcquisition : BitVec 3 := 3
def codeInternal : BitVec 3 := 4

/-! ## Pull codes (30_encoding.md R75). The engine drives PullUp only. -/

def pullNone : BitVec 2 := 0
def pullUp : BitVec 2 := 1
def pullDown : BitVec 2 := 2

/-! ## Flags and registers computed from the state -/

/-- `BUSY = (st != IDLE)` (10_state.md R22). -/
def busy (s : State) : Bool := decide (s.st ≠ stIdle)

/-- `irq` is a level equal to DONE (10_state.md R35, 60_exceptions.md R240). -/
def irq (s : State) : Bool := s.done

/-- `STATUS = {0b000, RESULT[2:0], DONE, BUSY}` (30_encoding.md R77). -/
def statusReg (s : State) : Byte :=
  0#3 ++ s.result ++ BitVec.ofBool s.done ++ BitVec.ofBool (busy s)

/-- `STATE = {0b0000, st[3:0]}` (30_encoding.md R79). -/
def stateReg (s : State) : Byte := 0#4 ++ s.st

/-- CTRL reads as 0x00 (30_encoding.md R78). -/
def ctrlReg : Byte := 0

/-- A measuring state: ACK_H1, ACK_L, ACK_H2, BIT_L or BIT_H (30_encoding.md R73). -/
def measuring (st : StateCode) : Bool := decide (5 ≤ st.toNat ∧ st.toNat ≤ 9)

/-- The target level of a measuring state (30_encoding.md R73): Low in ACK_L and BIT_L, High otherwise. -/
def targetLevel (st : StateCode) : Level := !(st == stAckL || st == stBitL)

end Sys2Proof.Machine
end

