-- ==== Sys2Proof/Machine/Operands.lean ====
section
/-! DEFINITION. The operand of a host operation: the register an address names, and what reading it gives
(20_memory.md R50, R51). The registers are views of the state; nothing is stored twice. -/

namespace Sys2Proof.Machine

/-- The contents of a register (20_memory.md R51). -/
def regValue : HostReg → State → Byte
  | .ctrl, _ => ctrlReg
  | .status, s => statusReg s
  | .frame0, s => s.frame.b0
  | .frame1, s => s.frame.b1
  | .frame2, s => s.frame.b2
  | .frame3, s => s.frame.b3
  | .frame4, s => s.frame.b4
  | .state, s => stateReg s

/-- `MemRead(addr, 1)` (00_scope.md R13, 20_memory.md R50): the byte at an address of the register space. -/
def memRead (a : BitVec 3) (s : State) : Byte := regValue (HostReg.ofAddr a) s

/-- Where the platform puts a register in its own address map: 20_memory.md R60 leaves that to the platform, as
DPE_BASE, and says nothing of the spacing. DESIGN CHOICE, unsafe (log entry 14): the eight registers are
contiguous from DPE_BASE on, one byte apart. -/
def platformAddress (r : HostReg) : Nat := Config.dpeBase + r.addr.toNat

end Sys2Proof.Machine
end

