-- ==== Sys2Proof/Machine/Ops.lean ====
section
/-! DEFINITION. The shared operations: the line outputs, completion (the DPE's only exceptional control
transfer), the accepted START, the Pulse Timer, the bit decoder, the frame assembler and the checksum. -/

namespace Sys2Proof.Machine

/-! ## Writing the state -/

/-- `drive(oe, out, pull)` (00_scope.md R13, 10_state.md R29). -/
def drive (oe : Bool) (out : Level) (pull : BitVec 2) (s : State) : State :=
  { s with lineOe := oe, lineOut := out, linePull := pull }

/-- `complete(code)` (60_exceptions.md R236), the completion step: RESULT and DONE are written, the engine
returns to IDLE and the line is released. `cnt`, `bitidx`, `lowdur`, `asm` and FRAME keep their values. -/
def complete (code : BitVec 3) (s : State) : State :=
  drive false true pullUp { s with result := code, done := true, st := stIdle }

/-- `cnt <- c`, into 16 bits. In every reachable state `c` fits (10_state.md R26, 41_pulse_timer.md R108);
where it would not, the low 16 bits are kept (log entry 6). -/
def setCnt (c : Nat) (s : State) : State := { s with cnt := BitVec.ofNat 16 c }

/-- `cnt <- c; st <- st'`. -/
def advance (st' : StateCode) (c : Nat) (s : State) : State :=
  { s with st := st', cnt := BitVec.ofNat 16 c }

/-- `bitidx <- i`, into 6 bits (log entry 6). -/
def setBitidx (i : Nat) (s : State) : State := { s with bitidx := BitVec.ofNat 6 i }

/-- `lowdur <- d`, into 8 bits. A passing measurement is below T_TIMEOUT and fits (41_pulse_timer.md R108). -/
def setLowdur (d : Nat) (s : State) : State := { s with lowdur := BitVec.ofNat 8 d }

/-- `asm <- a`. -/
def setAsm (a : Frame) (s : State) : State := { s with asm := a }

/-- `FRAME[k] <- asm[k]` for k = 0..4, all five in one step (43_data_phase.md R156). -/
def publish (s : State) : State := { s with frame := s.asm }

/-- The value a host read returns on `rdata` (30_encoding.md R70; log entry 4). -/
def setRdata (v : Byte) (s : State) : State := { s with rdata := v }

/-- The environment's draws reach the ports at a tick (10_state.md R31, R32). -/
def takeDraws (sample avail : Level) (s : State) : State :=
  { s with lineIn := sample, lineAvail := avail }

/-- The effect of a START the engine accepts (45_host_interface.md R200). No line output changes. -/
def acceptStart (s : State) : State :=
  { s with
    st := stArm, done := false, result := 0, frame := Frame.zero,
    cnt := 0, bitidx := 0, lowdur := 0, asm := Frame.zero }

/-- Every state element at its reset value (10_state.md R39). The ports, the agenda and the counter of free
draws are not state elements and stay. -/
def toReset (s : State) : State :=
  { State.reset with
    rst := s.rst, lineIn := s.lineIn, lineAvail := s.lineAvail, rdata := s.rdata,
    agenda := s.agenda, draws := s.draws }

/-- The level of the reset input. -/
def setRst (asserted : Bool) (s : State) : State := { s with rst := asserted }

/-! ## The register space -/

/-- START (45_host_interface.md R200): accepted in IDLE, ignored while BUSY (R211). -/
def startOp (s : State) : State := if s.st = stIdle then acceptStart s else s

/-- `MemWrite(addr, 1, v)` (20_memory.md R50, R59): the only write with an effect is one to CTRL with
`v[0] = 1`. -/
def memWrite (a : BitVec 3) (v : Byte) (s : State) : State :=
  match HostReg.ofAddr a with
  | .ctrl => if v.getLsbD 0 then startOp s else s
  | .status | .frame0 | .frame1 | .frame2 | .frame3 | .frame4 | .state => s

/-- A write that the register ignores (45_host_interface.md R201, R202). -/
def ignoredWrite (s : State) : State := s

/-- A read of register `r` returns its contents and changes nothing else (20_memory.md R58). -/
def readOp (r : HostReg) (s : State) : State := setRdata (regValue r s) s

/-! ## The Pulse Timer (41_pulse_timer.md R101) -/

/-- What one step of the Pulse Timer answers. -/
inductive PtResult where
  /-- The line is still at the target level: the count goes on. -/
  | cont (c : Nat)
  /-- The measurement ends with duration `d`. -/
  | finish (d : Nat)
  deriving DecidableEq, Repr

/-- `PT(v, c, s)`, on naturals (00_scope.md R11). -/
def pt (v : Level) (c : Nat) (s : Level) : PtResult :=
  if s ≠ v then .finish c
  else if c + 1 > Config.dpe.tTimeout then .finish (c + 1)
  else .cont (c + 1)

/-- One tick of a measurement of level `v`: `cnt <- c'` while it goes on, the state's own rule for `d` at
its end (41_pulse_timer.md R101, R106). -/
def measure (v : Level) (atEnd : Nat → State → State) (s : State) : State :=
  match pt v s.cnt.toNat s.lineIn with
  | .cont c => setCnt c s
  | .finish d => atEnd d s

/-- The at-or-beyond test of 41_pulse_timer.md R104 (90_conflicts.md C1). -/
def timedOut (d : Nat) : Bool := decide (Config.dpe.tTimeout ≤ d)

/-- The acknowledgement window (42_transaction_fsm.md R127, R128), both bounds inclusive. -/
def inAckWindow (d : Nat) : Bool := decide (Config.dpe.ackMin ≤ d ∧ d ≤ Config.dpe.ackMax)

/-- A whole measurement: the Pulse Timer over a list of samples from a count `c`, with the duration and the
samples not used; `none` where the samples run out first (41_pulse_timer.md R102). -/
def duration (v : Level) : Nat → List Level → Option (Nat × List Level)
  | _, [] => none
  | c, s :: rest =>
    match pt v c s with
    | .cont c' => duration v c' rest
    | .finish d => some (d, rest)

/-! ## A fixed sleep -/

/-- One tick of a fixed sleep of `n` ticks (42_transaction_fsm.md R123 to R125): count up to `n`, then `next`. -/
def sleep (n : Nat) (next : State → State) (s : State) : State :=
  if s.cnt.toNat + 1 = n then next s else setCnt (s.cnt.toNat + 1) s

/-! ## The bit decoder and the frame assembler -/

/-- `bit_decide(lo, hi)` (43_data_phase.md R152): strict and unsigned, equal durations give 0. -/
def bitDecide (lo hi : Nat) : Bool := decide (lo < hi)

/-- A byte with bit `j` set to `b`. -/
def setBit (x : Byte) (j : Nat) (b : Bool) : Byte :=
  if b then x ||| (1#8 <<< j) else x &&& ~~~(1#8 <<< j)

/-- A frame with byte `k` changed; a frame has bytes 0 to 4. -/
def modifyByte (f : Frame) (k : Nat) (g : Byte → Byte) : Frame :=
  match k with
  | 0 => { f with b0 := g f.b0 }
  | 1 => { f with b1 := g f.b1 }
  | 2 => { f with b2 := g f.b2 }
  | 3 => { f with b3 := g f.b3 }
  | 4 => { f with b4 := g f.b4 }
  | _ => f

/-- `pack(asm, i, b)` (43_data_phase.md R153): slot `i` is bit `7 - i mod 8` of byte `i / 8`
(20_memory.md R54). The rule gives slots 0 to 39; above them the buffer is a free value (log entry 7). -/
def pack (a : Frame) (i : Nat) (b : Bool) : Frame :=
  if i < Config.dpe.nBits then modifyByte a (i / 8) fun x => setBit x (7 - i % 8) b
  else Config.packBeyondFrame a i b

/-- The bit of slot `i` in a frame (20_memory.md R54), `false` where there is no such slot. -/
def slotBit (f : Frame) (i : Nat) : Bool :=
  match i / 8 with
  | 0 => f.b0.getLsbD (7 - i % 8)
  | 1 => f.b1.getLsbD (7 - i % 8)
  | 2 => f.b2.getLsbD (7 - i % 8)
  | 3 => f.b3.getLsbD (7 - i % 8)
  | 4 => f.b4.getLsbD (7 - i % 8)
  | _ => false

/-! ## The checksum -/

/-- The 16-bit sum of the first four bytes (43_data_phase.md R155). -/
def sum16 (f : Frame) : BitVec 16 :=
  f.b0.zeroExtend 16 + f.b1.zeroExtend 16 + f.b2.zeroExtend 16 + f.b3.zeroExtend 16

/-- `checksum_ok` (43_data_phase.md R155). -/
def checksumOk (f : Frame) : Bool := decide (f.b4 = (sum16 f).extractLsb' 0 8)

end Sys2Proof.Machine
end

