-- ==== Sys2Proof/Machine/DataPhase.lean ====
section
/-! DEFINITION. The micro-operations of the data phase and the checksum (43_data_phase.md). -/

namespace Sys2Proof.Machine

/-- The end of BIT_L's measurement (R150): the low duration is latched. -/
def endBitL (d : Nat) (s : State) : State :=
  if timedOut d then complete codeTimeout s else advance stBitH 1 (setLowdur d s)

/-- BIT_L (R150). -/
def execBitL (s : State) : Host.Outcome State Fault Refusal := .next (measure false endBitL s)

/-- The end of BIT_H's measurement (R151): the bit is decided and packed, and slot 39 is the last. -/
def endBitH (d : Nat) (s : State) : State :=
  if timedOut d then complete codeTimeout s
  else
    advance (if s.bitidx.toNat = Config.dpe.nBits - 1 then stCheck else stBitL) 1
      (setBitidx (s.bitidx.toNat + 1)
        (setAsm (pack s.asm s.bitidx.toNat (bitDecide s.lowdur.toNat d)) s))

/-- BIT_H (R151). -/
def execBitH (s : State) : Host.Outcome State Fault Refusal := .next (measure true endBitH s)

/-- CHECK (R154): publish the frame and complete with OK, or complete with CHECKSUM. -/
def execCheck (s : State) : Host.Outcome State Fault Refusal :=
  .next (if checksumOk s.asm then complete codeOk (publish s) else complete codeChecksum s)

end Sys2Proof.Machine
end

