-- ==== Sys2Proof/Machine/HostOps.lean ====
section
/-! DEFINITION. The host operations (45_host_interface.md). Each is one host step; none can fail, so each
answers a next state. -/

namespace Sys2Proof.Machine

/-! ## Writes -/

/-- START (R200). Only `wdata[0]` is read, and the decode has read it. -/
def execStart (_wdata : Byte) (s : State) : Host.Outcome State Fault Refusal := .next (startOp s)

/-- WR_CTRL_NOP (R201): no state changes. -/
def execWrCtrlNop (_wdata : Byte) (s : State) : Host.Outcome State Fault Refusal := .next (ignoredWrite s)

/-- WR_STATUS (R202): the write is ignored. -/
def execWrStatus (_wdata : Byte) (s : State) : Host.Outcome State Fault Refusal := .next (ignoredWrite s)

/-- WR_FRAME0 (R202): the write is ignored. -/
def execWrFrame0 (_wdata : Byte) (s : State) : Host.Outcome State Fault Refusal := .next (ignoredWrite s)

/-- WR_FRAME1 (R202): the write is ignored. -/
def execWrFrame1 (_wdata : Byte) (s : State) : Host.Outcome State Fault Refusal := .next (ignoredWrite s)

/-- WR_FRAME2 (R202): the write is ignored. -/
def execWrFrame2 (_wdata : Byte) (s : State) : Host.Outcome State Fault Refusal := .next (ignoredWrite s)

/-- WR_FRAME3 (R202): the write is ignored. -/
def execWrFrame3 (_wdata : Byte) (s : State) : Host.Outcome State Fault Refusal := .next (ignoredWrite s)

/-- WR_FRAME4 (R202): the write is ignored. -/
def execWrFrame4 (_wdata : Byte) (s : State) : Host.Outcome State Fault Refusal := .next (ignoredWrite s)

/-- WR_STATE (R202): the write is ignored. -/
def execWrState (_wdata : Byte) (s : State) : Host.Outcome State Fault Refusal := .next (ignoredWrite s)

/-! ## Reads: `wdata` is ignored (30_encoding.md R71) -/

/-- RD_CTRL (R203): `rdata <- 0x00`. -/
def execRdCtrl (_wdata : Byte) (s : State) : Host.Outcome State Fault Refusal := .next (readOp .ctrl s)

/-- RD_STATUS (R204): `rdata <- {0b000, RESULT[2:0], DONE, BUSY}`. -/
def execRdStatus (_wdata : Byte) (s : State) : Host.Outcome State Fault Refusal := .next (readOp .status s)

/-- RD_FRAME0 (R205): `rdata <- FRAME[0]`, humidity-high. -/
def execRdFrame0 (_wdata : Byte) (s : State) : Host.Outcome State Fault Refusal := .next (readOp .frame0 s)

/-- RD_FRAME1 (R206): `rdata <- FRAME[1]`, humidity-low. -/
def execRdFrame1 (_wdata : Byte) (s : State) : Host.Outcome State Fault Refusal := .next (readOp .frame1 s)

/-- RD_FRAME2 (R207): `rdata <- FRAME[2]`, temperature-high. -/
def execRdFrame2 (_wdata : Byte) (s : State) : Host.Outcome State Fault Refusal := .next (readOp .frame2 s)

/-- RD_FRAME3 (R208): `rdata <- FRAME[3]`, temperature-low. -/
def execRdFrame3 (_wdata : Byte) (s : State) : Host.Outcome State Fault Refusal := .next (readOp .frame3 s)

/-- RD_FRAME4 (R209): `rdata <- FRAME[4]`, the checksum byte. -/
def execRdFrame4 (_wdata : Byte) (s : State) : Host.Outcome State Fault Refusal := .next (readOp .frame4 s)

/-- RD_STATE (R210): `rdata <- {0b0000, st[3:0]}`. -/
def execRdState (_wdata : Byte) (s : State) : Host.Outcome State Fault Refusal := .next (readOp .state s)

end Sys2Proof.Machine
end

