-- ==== Sys2Proof/Machine/Transaction.lean ====
section
/-! DEFINITION. The micro-operations of steps 1 to 6 and of the reserved codes (42_transaction_fsm.md). Each
is one engine step; a failing one completes (60_exceptions.md R236), which is a next state. -/

namespace Sys2Proof.Machine

/-- IDLE (R121): no state changes. -/
def execIdle (s : State) : Host.Outcome State Fault Refusal := .next s

/-- ARM (R122): claim the pad, or complete with ACQUISITION (60_exceptions.md R233). -/
def execArm (s : State) : Host.Outcome State Fault Refusal :=
  .next (if s.lineAvail then advance stBusIdle 0 (drive true true pullUp s)
    else complete codeAcquisition s)

/-- BUS_IDLE (R123): High for T_IDLE ticks, then drive Low. -/
def execBusIdle (s : State) : Host.Outcome State Fault Refusal :=
  .next (sleep Config.dpe.tIdle (fun s => advance stStartLow 0 (drive true false pullUp s)) s)

/-- START_LOW (R124): Low for T_START ticks, then drive High. -/
def execStartLow (s : State) : Host.Outcome State Fault Refusal :=
  .next (sleep Config.dpe.tStart (fun s => advance stRelease 0 (drive true true pullUp s)) s)

/-- RELEASE (R125): High for T_REL ticks, then Input. -/
def execRelease (s : State) : Host.Outcome State Fault Refusal :=
  .next (sleep Config.dpe.tRel (fun s => advance stAckH1 0 (drive false true pullUp s)) s)

/-- The end of ACK_H1's measurement (R126): any duration below the timeout passes. -/
def endAckH1 (d : Nat) (s : State) : State :=
  if timedOut d then complete codeTimeout s else advance stAckL 1 s

/-- ACK_H1 (R126). -/
def execAckH1 (s : State) : Host.Outcome State Fault Refusal := .next (measure true endAckH1 s)

/-- The end of ACK_L's measurement (R127): the window decides. -/
def endAckL (d : Nat) (s : State) : State :=
  if inAckWindow d then advance stAckH2 1 s else complete codeTimeout s

/-- ACK_L (R127). -/
def execAckL (s : State) : Host.Outcome State Fault Refusal := .next (measure false endAckL s)

/-- The end of ACK_H2's measurement (R128): the window decides, and the data phase begins at slot 0. -/
def endAckH2 (d : Nat) (s : State) : State :=
  if inAckWindow d then advance stBitL 1 (setBitidx 0 s) else complete codeTimeout s

/-- ACK_H2 (R128). -/
def execAckH2 (s : State) : Host.Outcome State Fault Refusal := .next (measure true endAckH2 s)

/-- RESERVED_11 (R129): complete with INTERNAL (60_exceptions.md R234). -/
def execReserved11 (s : State) : Host.Outcome State Fault Refusal := .next (complete codeInternal s)

/-- RESERVED_12_15 (R129): complete with INTERNAL (60_exceptions.md R234). -/
def execReserved1215 (_code : StateCode) (s : State) : Host.Outcome State Fault Refusal :=
  .next (complete codeInternal s)

end Sys2Proof.Machine
end

