-- ==== Sys2Proof/Machine/Dispatch.lean ====
section
/-! DEFINITION. One arm per instruction, each one call of its meaning. -/

namespace Sys2Proof.Machine

def exec (i : Instr) (s : State) : Host.Outcome State Fault Refusal :=
  match i with
  -- host operations (45_host_interface.md)
  | .start v => Sys2Proof.Machine.execStart v s
  | .wrCtrlNop v => Sys2Proof.Machine.execWrCtrlNop v s
  | .wrStatus v => Sys2Proof.Machine.execWrStatus v s
  | .wrFrame0 v => Sys2Proof.Machine.execWrFrame0 v s
  | .wrFrame1 v => Sys2Proof.Machine.execWrFrame1 v s
  | .wrFrame2 v => Sys2Proof.Machine.execWrFrame2 v s
  | .wrFrame3 v => Sys2Proof.Machine.execWrFrame3 v s
  | .wrFrame4 v => Sys2Proof.Machine.execWrFrame4 v s
  | .wrState v => Sys2Proof.Machine.execWrState v s
  | .rdCtrl v => Sys2Proof.Machine.execRdCtrl v s
  | .rdStatus v => Sys2Proof.Machine.execRdStatus v s
  | .rdFrame0 v => Sys2Proof.Machine.execRdFrame0 v s
  | .rdFrame1 v => Sys2Proof.Machine.execRdFrame1 v s
  | .rdFrame2 v => Sys2Proof.Machine.execRdFrame2 v s
  | .rdFrame3 v => Sys2Proof.Machine.execRdFrame3 v s
  | .rdFrame4 v => Sys2Proof.Machine.execRdFrame4 v s
  | .rdState v => Sys2Proof.Machine.execRdState v s
  -- state micro-operations (42_transaction_fsm.md, 43_data_phase.md)
  | .idle => Sys2Proof.Machine.execIdle s
  | .arm => Sys2Proof.Machine.execArm s
  | .busIdle => Sys2Proof.Machine.execBusIdle s
  | .startLow => Sys2Proof.Machine.execStartLow s
  | .release => Sys2Proof.Machine.execRelease s
  | .ackH1 => Sys2Proof.Machine.execAckH1 s
  | .ackL => Sys2Proof.Machine.execAckL s
  | .ackH2 => Sys2Proof.Machine.execAckH2 s
  | .bitL => Sys2Proof.Machine.execBitL s
  | .bitH => Sys2Proof.Machine.execBitH s
  | .check => Sys2Proof.Machine.execCheck s
  | .reserved11 => Sys2Proof.Machine.execReserved11 s
  | .reserved1215 c => Sys2Proof.Machine.execReserved1215 c s

end Sys2Proof.Machine
end

