-- ==== Sys2Proof/Machine/Sequencer.lean ====
section
/-! DEFINITION. What the machine does at each outside event (00_scope.md R14): which event is next, and how
the reset input stands above the other two agents (70_reset_and_hazards.md R260, R261). -/

namespace Sys2Proof.Machine

/-- The next outside event, and the state with it taken. Where the agenda is empty a tick comes with free
draws (10_state.md R31, R32; log entry 2). -/
def takeEvent (s : State) : Event × State :=
  match s.agenda with
  | e :: rest => (e, { s with agenda := rest })
  | [] => (.tick (Config.freeSample s.draws) (Config.freeAvail s.draws), { s with draws := s.draws + 1 })

/-- A host step (R36, R70). While reset is asserted a write has no effect and a read returns the register's
reset value (70_reset_and_hazards.md R260). -/
def hostStep (w : BusWord) (s : State) : Host.Outcome State Fault Refusal :=
  if s.rst then
    if fieldWe w then .next (toReset s) else exec (decodeHost w) (toReset s)
  else exec (decodeHost w) s

/-- The engine step of a tick (42_transaction_fsm.md R120): the draws reach the ports and the micro-operation
of the current state code runs. While reset is asserted every state element is held at its reset value. -/
def engineStep (sample avail : Level) (s : State) : Host.Outcome State Fault Refusal :=
  if s.rst then .next (toReset (takeDraws sample avail s))
  else exec (decodeState s.st) (takeDraws sample avail s)

/-- The reset input changes (R260): asserting it takes effect at once, releasing it leaves the reset values
standing. -/
def rstStep (asserted : Bool) (s : State) : Host.Outcome State Fault Refusal :=
  .next (if asserted || s.rst then toReset (setRst asserted s) else setRst asserted s)

/-- One outside event. -/
def perform (e : Event) (s : State) : Host.Outcome State Fault Refusal :=
  match e with
  | .host w => hostStep w s
  | .tick sample avail => engineStep sample avail s
  | .rst asserted => rstStep asserted s

end Sys2Proof.Machine
end

