-- ==== Sys2Proof/Machine/Step.lean ====
section
/-! DEFINITION. One step of the machine: one outside event (00_scope.md R14). -/

namespace Sys2Proof.Machine

/-- Take the next event and perform it. -/
def step (s : State) : Host.Outcome State Fault Refusal :=
  perform (takeEvent s).1 (takeEvent s).2

/-- The state whose very next step runs the instruction with bits `w` (log entry 11). An instruction of at
most 8 bits is a state code: `st` holds it and the next event is a tick at which the ports keep their
levels. A longer one is a bus word: it is the next host access. No instruction runs while reset is asserted,
so reset is released. -/
def State.withFetchWord (s : State) (nbits w : Nat) : State :=
  if nbits ≤ 8 then
    { s with st := BitVec.ofNat 4 w, rst := false, agenda := .tick s.lineIn s.lineAvail :: s.agenda }
  else { s with rst := false, agenda := .host (BitVec.ofNat 12 w) :: s.agenda }

end Sys2Proof.Machine
end

