-- ==== Sys2Proof/Machine/HostDecoders.lean ====
section
/-! DEFINITION. The host-side reference functions (44_decoders.md), outside the block (00_scope.md R5): the
decoders of the Raw Frame, exact and floating-point, and what a caller gets from a completed transaction. -/

namespace Sys2Proof.Machine

/-! ## Fields (R181, R183) -/

/-- `t_sign = b[2][7]`, `true` is negative (R181). -/
def tSign (b : Frame) : Bool := b.b2.getLsbD 7

/-- `t_mag = {b[2][6:0], b[3]}`, 15 bits unsigned (R181): sign-magnitude, not two's complement. -/
def tMag (b : Frame) : BitVec 15 := b.b2.extractLsb' 0 7 ++ b.b3

/-- `h_mag = {b[0], b[1]}`, 16 bits unsigned (R183). -/
def hMag (b : Frame) : BitVec 16 := b.b0 ++ b.b1

/-! ## Exact values (R182, R184) -/

/-- The temperature in tenths of a degree Celsius (R182). Negative zero is zero. -/
def temperatureTenths (b : Frame) : Int := if tSign b then -(tMag b).toNat else (tMag b).toNat

/-- The relative humidity in tenths of a percent (R184). No range check. -/
def humidityTenths (b : Frame) : Int := (hMag b).toNat

/-- `T = (-1)^t_sign * t_mag / 10` in degrees Celsius (R182). -/
def temperature (b : Frame) : ℚ := (temperatureTenths b : ℚ) / 10

/-- `H = h_mag / 10` in percent relative humidity (R184). -/
def humidity (b : Frame) : ℚ := (humidityTenths b : ℚ) / 10

/-! ## Floating-point values (R185), over the open format HOST_FLOAT (log entry 14) -/

/-- A floating-point result as its sign bit and its magnitude, so that -0.0 is kept apart from 0.0 (R185). -/
structure FloatValue where
  negative : Bool
  magnitude : ℚ
  deriving DecidableEq, Repr

/-- `fl(fl(mag) * fl(0.1))` (R185), `fl` being the format's rounding. -/
def scaleTenth (fl : ℚ → ℚ) (mag : Nat) : ℚ := fl (fl mag * fl (1 / 10))

/-- `temperature_float` at a rounding (R185). -/
def temperatureFloatAt (fl : ℚ → ℚ) (b : Frame) : FloatValue := ⟨tSign b, scaleTenth fl (tMag b).toNat⟩

/-- `humidity_float` at a rounding (R185). -/
def humidityFloatAt (fl : ℚ → ℚ) (b : Frame) : FloatValue := ⟨false, scaleTenth fl (hMag b).toNat⟩

/-- `temperature_float` at HOST_FLOAT. -/
def temperatureFloat (b : Frame) : FloatValue := temperatureFloatAt Config.hostFloat b

/-- `humidity_float` at HOST_FLOAT. -/
def humidityFloat (b : Frame) : FloatValue := humidityFloatAt Config.hostFloat b

/-! ## What the caller gets (R180, R187) -/

/-- The error kinds of 60_exceptions.md R231 to R234, as the caller sees them. -/
inductive ReadError where
  | timeout | checksum | acquisition | internal
  /-- A RESULT code that no completion writes (30_encoding.md R80). -/
  | reservedCode
  deriving DecidableEq, Repr

/-- The error a RESULT code other than OK names (30_encoding.md R74). -/
def errorOfResult (r : BitVec 3) : ReadError :=
  if r = codeTimeout then .timeout
  else if r = codeChecksum then .checksum
  else if r = codeAcquisition then .acquisition
  else if r = codeInternal then .internal
  else .reservedCode

/-- The Raw Frame of a completed transaction, or its error: the decoders are applied to no other frame
(R180). `status` and the frame are what the host has read. -/
def callerFrame (result : BitVec 3) (f : Frame) : Except ReadError Frame :=
  if result = codeOk then .ok f else .error (errorOfResult result)

/-- `read_temperature()` on a completed transaction (R187), in tenths of a degree. -/
def callerTemperature (result : BitVec 3) (f : Frame) : Except ReadError Int :=
  (callerFrame result f).map temperatureTenths

/-- `read_humidity()` on a completed transaction (R187), in tenths of a percent. -/
def callerHumidity (result : BitVec 3) (f : Frame) : Except ReadError Int :=
  (callerFrame result f).map humidityTenths

end Sys2Proof.Machine
end

