-- ==== Sys2Proof/Machine/HostProgram.lean ====
section
/-! DEFINITION. Host programs and line stimuli (30_encoding.md R84 to R86), and the host's side of a
transaction (44_decoders.md R187). Outside the block: they only issue events and read `rdata`. -/

namespace Sys2Proof.Machine

/-! ## Runs over a list of events -/

/-- The state with events placed before those already to come. -/
def schedule (es : List Event) (s : State) : State := { s with agenda := es ++ s.agenda }

/-- Perform a list of events: as many steps of the machine, with those events next on its agenda. -/
def runEvents (es : List Event) (s : State) : Host.Outcome State Fault Refusal :=
  Sys2Proof.core.run es.length (schedule es s)

/-! ## Line stimuli (R86) -/

/-- `H^n`: n ticks whose sample is High; the pad is available unless a vector says otherwise. -/
def highs (n : Nat) : List Event := List.replicate n (.tick true true)

/-- `L^n`: n ticks whose sample is Low. -/
def lows (n : Nat) : List Event := List.replicate n (.tick false true)

/-- Ticks with given draws. -/
def ticks (draws : List (Level × Level)) : List Event := draws.map fun d => .tick d.1 d.2

/-- The stimulus of bit-slots with the given Low and High durations (43_data_phase.md R150, R151). -/
def slotPulses (pulses : List (Nat × Nat)) : List Event :=
  pulses.flatMap fun p => lows p.1 ++ highs p.2

/-- The nominal pulses of a frame's 40 bits (95_test_vectors.md, NOM): Low 54, then High 70 for a 1 and 50
for a 0. -/
def nominalPulses (f : Frame) : List (Nat × Nat) :=
  (List.range 40).map fun i => (54, if slotBit f i then 70 else 50)

/-- `NOM(frame)` (95_test_vectors.md), with the sensor's trailing Low and the tick of CHECK. -/
def nominal (f : Frame) : List Event :=
  highs 30 ++ lows 80 ++ highs 80 ++ slotPulses (nominalPulses f) ++ lows 2

/-- The ticks from an accepted START to the tick that enters ACK_H1, the line ignored (42_transaction_fsm.md
R131): `X^n`. -/
def setupTicks : List Event :=
  lows (1 + Config.dpe.tIdle + Config.dpe.tStart + Config.dpe.tRel)

/-! ## Host assembly (R84, R85) -/

/-- A line of a host program. -/
inductive HostLine where
  /-- `wr <reg>, <imm8>` -/
  | wr (r : HostReg) (imm : Byte)
  /-- `rd <reg>` -/
  | rd (r : HostReg)
  /-- `start` -/
  | start
  /-- `poll` -/
  | poll
  /-- `wait <n>` -/
  | wait (n : Nat)
  /-- `readframe` -/
  | readframe
  deriving DecidableEq, Repr

/-- The word of `wr <reg>, <imm8>` (R84): `{1, addr, imm8}`. -/
def wrWord (r : HostReg) (imm : Byte) : BusWord := busWord true r imm

/-- The word of `rd <reg>` (R84): `{0, addr, 0x00}`. -/
def rdWord (r : HostReg) : BusWord := busWord false r 0

/-- The bus words a line stands for (R84, R85). `wait` is no host step; each turn of `poll` is one
`rd STATUS`. -/
def HostLine.words : HostLine → List BusWord
  | .wr r v => [wrWord r v]
  | .rd r => [rdWord r]
  | .start => [wrWord .ctrl 1]
  | .poll => [rdWord .status]
  | .wait _ => []
  | .readframe => [rdWord .frame0, rdWord .frame1, rdWord .frame2, rdWord .frame3, rdWord .frame4]

/-! ## Running a host program

The environment gives the draws of each tick as a function of how many ticks have passed. A run never needs
the machine's own agenda: every event of it is performed here. -/

/-- A host program in progress: the machine, the ticks passed, and the values read, latest first. -/
structure HostRun where
  machine : State
  passed : Nat
  reads : List Byte
  deriving DecidableEq, Repr

/-- Continue with the machine's next state, or keep the stop. -/
def thenRun {α : Type} (o : Host.Outcome State Fault Refusal)
    (k : State → Host.Outcome α Fault Refusal) : Host.Outcome α Fault Refusal :=
  match o with
  | .next s => k s
  | .fault r => .fault r
  | .refused r => .refused r

/-- One host access. A read's value is kept by the host (R70). -/
def hostAccess (w : BusWord) (h : HostRun) : Host.Outcome HostRun Fault Refusal :=
  thenRun (perform (.host w) h.machine) fun s =>
    .next { h with machine := s, reads := if fieldWe w then h.reads else s.rdata :: h.reads }

/-- One host access after another, in order. -/
def hostAccesses : List BusWord → HostRun → Host.Outcome HostRun Fault Refusal
  | [], h => .next h
  | w :: ws, h =>
    match hostAccess w h with
    | .next h' => hostAccesses ws h'
    | .fault r => .fault r
    | .refused r => .refused r

/-- One tick with the environment's draws. -/
def hostTick (env : Nat → Level × Level) (h : HostRun) : Host.Outcome HostRun Fault Refusal :=
  thenRun (perform (.tick (env h.passed).1 (env h.passed).2) h.machine) fun s =>
    .next { h with machine := s, passed := h.passed + 1 }

/-- `wait <n>` (R85): n ticks and no host step. -/
def hostWait (env : Nat → Level × Level) : Nat → HostRun → Host.Outcome HostRun Fault Refusal
  | 0, h => .next h
  | n + 1, h =>
    match hostTick env h with
    | .next h' => hostWait env n h'
    | .fault r => .fault r
    | .refused r => .refused r

/-- The DONE bit of the latest value read (R77, R85). -/
def sawDone (h : HostRun) : Bool := (h.reads.headD 0).getLsbD 1

/-- `poll` (R85): `rd STATUS`, and while DONE is 0 let one tick pass and repeat, at most `fuel` times. One
tick a turn is the shortest wait the rule allows (log entry 16). -/
def hostPoll (env : Nat → Level × Level) : Nat → HostRun → Host.Outcome HostRun Fault Refusal
  | 0, h => .next h
  | fuel + 1, h =>
    match hostAccess (rdWord .status) h with
    | .next h' =>
      if sawDone h' then .next h'
      else
        match hostTick env h' with
        | .next h'' => hostPoll env fuel h''
        | .fault r => .fault r
        | .refused r => .refused r
    | .fault r => .fault r
    | .refused r => .refused r

/-- The longest transaction (70_reset_and_hazards.md R272), N_MAX. -/
def nMax : Nat :=
  3 + Config.dpe.tIdle + Config.dpe.tStart + Config.dpe.tRel + 2 * Config.dpe.ackMax
    + 81 * (Config.dpe.tTimeout - 1)

/-- One line of a host program. A poll is given a turn for every tick a transaction can take, and one more. -/
def hostLine (env : Nat → Level × Level) (l : HostLine) (h : HostRun) :
    Host.Outcome HostRun Fault Refusal :=
  match l with
  | .poll => hostPoll env (nMax + 1) h
  | .wait n => hostWait env n h
  | l => hostAccesses l.words h

/-- A host program, line after line. -/
def hostProgram (env : Nat → Level × Level) : List HostLine → HostRun → Host.Outcome HostRun Fault Refusal
  | [], h => .next h
  | l :: ls, h =>
    match hostLine env l h with
    | .next h' => hostProgram env ls h'
    | .fault r => .fault r
    | .refused r => .refused r

/-- The lines of one read transaction by the host (44_decoders.md R187): START, poll until DONE, and take
the frame. -/
def readLines : List HostLine := [.start, .poll, .readframe]

/-- The RESULT field of a STATUS value (R77). -/
def resultOfStatus (v : Byte) : BitVec 3 := v.extractLsb' 2 3

/-- What the host holds after `readLines`: the RESULT of the last STATUS it read and the five frame bytes.
`none` where that STATUS does not show DONE. -/
def resultAndFrame (h : HostRun) : Option (BitVec 3 × Frame) :=
  match h.reads with
  | b4 :: b3 :: b2 :: b1 :: b0 :: status :: _ =>
    if status.getLsbD 1 then some (resultOfStatus status, ⟨b0, b1, b2, b3, b4⟩) else none
  | _ => none

/-- One caller operation (R187) with its decode: a fresh transaction on machine `s`. `none` is a stop of the
machine or a poll that never sees DONE. -/
def callerRead (decodeFrame : BitVec 3 → Frame → Except ReadError Int) (env : Nat → Level × Level)
    (s : State) : Option (Except ReadError Int × State) :=
  match hostProgram env readLines ⟨s, 0, []⟩ with
  | .next h => (resultAndFrame h).map fun rf => (decodeFrame rf.1 rf.2, h.machine)
  | .fault _ => none
  | .refused _ => none

/-- `read_temperature()` (R187), in tenths of a degree. -/
def readTemperature (env : Nat → Level × Level) (s : State) : Option (Except ReadError Int × State) :=
  callerRead callerTemperature env s

/-- `read_humidity()` (R187), in tenths of a percent. -/
def readHumidity (env : Nat → Level × Level) (s : State) : Option (Except ReadError Int × State) :=
  callerRead callerHumidity env s

end Sys2Proof.Machine
end

