-- ==== Sys2Proof/Machine/HostSyntax.lean ====
section
/-! DEFINITION. The text of host programs (30_encoding.md R84, R85): one host step a line, names in either
case, numbers in decimal, `0x` hex or `0b` binary, a comment from `;` on. How words are parted, and the
letter case of numbers, are log entry 17. -/

namespace Sys2Proof.Machine

/-- Why a line of text is no host step. -/
inductive SyntaxError where
  | unknownOperation
  | unknownRegister
  | badNumber
  | wrongOperands
  deriving DecidableEq, Repr

/-- The line up to its comment. -/
def dropComment (cs : List Char) : List Char := cs.takeWhile (· ≠ ';')

/-- A character that parts words: a blank, a tab or a comma. -/
def isSeparator (c : Char) : Bool := c == ' ' || c == '\t' || c == ','

/-- The words of a line, given the word being read, back to front. -/
def splitWords : List Char → List Char → List (List Char)
  | cur, [] => if cur.isEmpty then [] else [cur.reverse]
  | cur, c :: cs =>
    if isSeparator c then
      if cur.isEmpty then splitWords [] cs else cur.reverse :: splitWords [] cs
    else splitWords (c :: cur) cs

/-- The value of a digit in a base up to 16. -/
def digitValue (base : Nat) (c : Char) : Option Nat :=
  let n := c.toNat
  let v := if 48 ≤ n ∧ n ≤ 57 then n - 48 else if 97 ≤ n ∧ n ≤ 102 then n - 87 else base
  if v < base then some v else none

/-- The digits of a number after the value read so far. -/
def numberFrom (base : Nat) : Nat → List Char → Option Nat
  | acc, [] => some acc
  | acc, c :: cs =>
    match digitValue base c with
    | some v => numberFrom base (acc * base + v) cs
    | none => none

/-- A number of at least one digit. -/
def numberIn (base : Nat) (cs : List Char) : Option Nat := if cs.isEmpty then none else numberFrom base 0 cs

/-- A number: decimal, `0x` hex or `0b` binary (R84), in lower case. -/
def parseNumber (cs : List Char) : Option Nat :=
  match cs with
  | '0' :: 'x' :: rest => numberIn 16 rest
  | '0' :: 'b' :: rest => numberIn 2 rest
  | _ => numberIn 10 cs

/-- A register name, in lower case. -/
def parseReg (cs : List Char) : Option HostReg :=
  if cs = "ctrl".toList then some .ctrl
  else if cs = "status".toList then some .status
  else if cs = "frame0".toList then some .frame0
  else if cs = "frame1".toList then some .frame1
  else if cs = "frame2".toList then some .frame2
  else if cs = "frame3".toList then some .frame3
  else if cs = "frame4".toList then some .frame4
  else if cs = "state".toList then some .state
  else none

/-- The words of a line as a host step. An immediate above 255 is no `imm8`. -/
def parseWords (ws : List (List Char)) : Except SyntaxError HostLine :=
  match ws with
  | [op] =>
    if op = "start".toList then .ok .start
    else if op = "poll".toList then .ok .poll
    else if op = "readframe".toList then .ok .readframe
    else if op = "wr".toList ∨ op = "rd".toList ∨ op = "wait".toList then .error .wrongOperands
    else .error .unknownOperation
  | [op, a] =>
    if op = "rd".toList then
      match parseReg a with
      | some r => .ok (.rd r)
      | none => .error .unknownRegister
    else if op = "wait".toList then
      match parseNumber a with
      | some n => .ok (.wait n)
      | none => .error .badNumber
    else .error .wrongOperands
  | [op, a, b] =>
    if op = "wr".toList then
      match parseReg a, parseNumber b with
      | some r, some n => if n < 256 then .ok (.wr r (BitVec.ofNat 8 n)) else .error .badNumber
      | none, _ => .error .unknownRegister
      | some _, none => .error .badNumber
    else .error .wrongOperands
  | _ => .error .wrongOperands

/-- A line of text, `none` where it is blank or a comment only. R84 makes names case-insensitive and is silent on
the letter case of numbers. DESIGN CHOICE (log entry 17): the whole line is put in lower case, so hex digits
and the prefixes `0x` and `0b` are accepted in either case. -/
def parseLine (line : List Char) : Except SyntaxError (Option HostLine) :=
  match splitWords [] ((dropComment line).map Char.toLower) with
  | [] => .ok none
  | ws =>
    match parseWords ws with
    | .ok l => .ok (some l)
    | .error e => .error e

/-- A host program, one line of text each. -/
def parseProgram : List (List Char) → Except SyntaxError (List HostLine)
  | [] => .ok []
  | l :: ls =>
    match parseLine l, parseProgram ls with
    | .ok (some h), .ok hs => .ok (h :: hs)
    | .ok none, .ok hs => .ok hs
    | .error e, _ => .error e
    | .ok _, .error e => .error e

end Sys2Proof.Machine
end

