-- ==== Sys2Proof/Safety.lean ====
section
/-! DEFINITION. What every reachable state satisfies (10_state.md R40 and the bounds other rules state), and
the order in which the engine visits its states (42_transaction_fsm.md R130). -/

namespace Sys2Proof.Safety

open Sys2Proof.Machine

/-- The invariants of 10_state.md R40, in its order. -/
structure EngineInv (s : State) : Prop where
  /-- `line_oe = 1` if and only if `st` is BUS_IDLE, START_LOW or RELEASE. -/
  output : s.lineOe = true ↔ s.st = stBusIdle ∨ s.st = stStartLow ∨ s.st = stRelease
  /-- `line_out = 0` if and only if `st = START_LOW`. -/
  low : s.lineOut = false ↔ s.st = stStartLow
  /-- `line_pull = PullUp` always. -/
  pulledUp : s.linePull = pullUp
  /-- In a measuring state, `cnt <= T_TIMEOUT`. -/
  counting : measuring s.st = true → s.cnt.toNat ≤ Config.dpe.tTimeout
  /-- In BIT_L and BIT_H, `bitidx <= 39`. -/
  slotOpen : s.st = stBitL ∨ s.st = stBitH → s.bitidx.toNat ≤ 39
  /-- In CHECK, `bitidx = 40`. -/
  slotsDone : s.st = stCheck → s.bitidx.toNat = 40
  /-- `DONE = 0` whenever `BUSY = 1`. -/
  busyNotDone : busy s = true → s.done = false
  /-- If `DONE = 0` or `RESULT != OK`, then FRAME is 0x00. -/
  noFrame : s.done = false ∨ s.result ≠ codeOk → s.frame = Frame.zero
  /-- If `DONE = 1` and `RESULT = OK`, then `FRAME[k] = asm[k]`. -/
  frameIsAsm : s.done = true ∧ s.result = codeOk → s.frame = s.asm

/-- The states in which the transaction has decoded no bit yet: ARM to ACK_H2. -/
def beforeData (st : StateCode) : Bool := decide (1 ≤ st.toNat ∧ st.toNat ≤ 7)

/-- The fixed drive time of a sleep state (42_transaction_fsm.md R123 to R125). -/
def sleepTicks (st : StateCode) : Option Nat :=
  if st = stBusIdle then some Config.dpe.tIdle
  else if st = stStartLow then some Config.dpe.tStart
  else if st = stRelease then some Config.dpe.tRel
  else none

/-- 10_state.md R40 and what other rules say of every reachable state. -/
structure Inv (s : State) : Prop extends EngineInv s where
  /-- State codes 11 to 15 are never reached (30_encoding.md R80, R129). -/
  legalState : s.st.toNat ≤ 10
  /-- RESULT never holds INTERNAL or a reserved code (R80, 60_exceptions.md R234). -/
  legalResult : s.result.toNat ≤ 3
  /-- While DONE = 0, RESULT reads 0 (10_state.md R24). -/
  noResult : s.done = false → s.result = codeOk
  /-- A sleep's count stays below its drive time (R26). -/
  sleeping : ∀ n, sleepTicks s.st = some n → s.cnt.toNat < n
  /-- `cnt` never exceeds `max(T_IDLE, T_START, T_REL, T_TIMEOUT + 1)`, so it never wraps (R26). -/
  countRange : s.cnt.toNat ≤
    max (max Config.dpe.tIdle Config.dpe.tStart) (max Config.dpe.tRel (Config.dpe.tTimeout + 1))
  /-- Every measurement but ACK_H1's has counted its first sample (41_pulse_timer.md R103, R107). -/
  counted : measuring s.st = true → s.st ≠ stAckH1 → 1 ≤ s.cnt.toNat
  /-- `bitidx` holds 0..40 (R27). -/
  slotRange : s.bitidx.toNat ≤ 40
  /-- In BIT_H the latched Low duration is one that passed (R150). -/
  lowLatched : s.st = stBitH → 1 ≤ s.lowdur.toNat ∧ s.lowdur.toNat < Config.dpe.tTimeout
  /-- No bit is packed before the data phase (R33, R153). -/
  asmClear : beforeData s.st = true → s.asm = Frame.zero
  /-- The slots not decoded yet are 0 (R153). -/
  slotsClear : s.st = stBitL ∨ s.st = stBitH → ∀ j, s.bitidx.toNat ≤ j → j < 40 → slotBit s.asm j = false
  /-- After an OK result the frame satisfies the checksum (45_host_interface.md R209). -/
  okChecksum : s.done = true ∧ s.result = codeOk → checksumOk s.frame = true
  /-- While reset is asserted every state element holds its reset value (70_reset_and_hazards.md R260). -/
  heldInReset : s.rst = true → toReset s = s

/-- The states the engine may be in after one tick in a state (42_transaction_fsm.md R130): stay, go on to
the next state of the order, back to IDLE by completion from ARM, from a measuring state or from CHECK, and
from BIT_H back to BIT_L. IDLE is left by no tick (R121). -/
def mayFollow (st st' : StateCode) : Bool :=
  match st.toNat with
  | 0 => st' == stIdle
  | 1 => st' == stBusIdle || st' == stIdle
  | 2 => st' == stBusIdle || st' == stStartLow
  | 3 => st' == stStartLow || st' == stRelease
  | 4 => st' == stRelease || st' == stAckH1
  | 5 => st' == stAckH1 || st' == stAckL || st' == stIdle
  | 6 => st' == stAckL || st' == stAckH2 || st' == stIdle
  | 7 => st' == stAckH2 || st' == stBitL || st' == stIdle
  | 8 => st' == stBitL || st' == stBitH || st' == stIdle
  | 9 => st' == stBitH || st' == stBitL || st' == stCheck || st' == stIdle
  | 10 => st' == stIdle
  | _ => st' == stIdle

/-- The state elements of two machines agree: everything of 10_state.md section 2, leaving the ports and the
model's own fields aside. -/
def sameElements (s t : State) : Prop :=
  s.st = t.st ∧ s.done = t.done ∧ s.result = t.result ∧ s.frame = t.frame ∧ s.cnt = t.cnt
    ∧ s.bitidx = t.bitidx ∧ s.lowdur = t.lowdur ∧ s.asm = t.asm
    ∧ s.lineOe = t.lineOe ∧ s.lineOut = t.lineOut ∧ s.linePull = t.linePull

end Sys2Proof.Safety
end

