-- ==== Sys2Proof/Certificates/Slice0/Obligations.lean ====
section
/-! DEFINITION. The statements for the provers. Each docstring names the rule of spec/ it formalises. State
codes, result codes and register values are written as the numbers of 30_encoding.md R73 to R75. -/

open Sys2Proof Sys2Proof.Machine Sys2Proof.Safety

/-! ## Encoding and decoding -/

/-- The bits of a well-formed instruction, laid in bytes, decode to that instruction, with every operand at
every value. The layout in bytes is the model's choice (log entry 12). -/
def Obligations.EncodedInstructionDecodesToItself : Prop :=
  ∀ i : Instr, i.wf = true → decodeBytes (encodeBytes i) = .ok i

/-- Bytes that decode are the encoding of what they decode to, and that is well formed: no bit is dropped and
no other byte string is accepted (layout: log entry 12). -/
def Obligations.DecodedBytesAreTheEncoding : Prop :=
  ∀ (bs : List Byte) (i : Instr), decodeBytes bs = .ok i → encodeBytes i = bs ∧ i.wf = true

/-- 30_encoding.md R72: the condition on a word's fields names its operation. -/
def Obligations.BusWordDecodesByItsFields : Prop :=
  ∀ (w : BusWord) (v : Byte), v = w.extractLsb' 0 8 →
    (w.getLsbD 11 = true → w.extractLsb' 8 3 = 0 → w.getLsbD 0 = true → decodeHost w = .start v) ∧
    (w.getLsbD 11 = true → w.extractLsb' 8 3 = 0 → w.getLsbD 0 = false → decodeHost w = .wrCtrlNop v) ∧
    (w.getLsbD 11 = true → w.extractLsb' 8 3 = 1 → decodeHost w = .wrStatus v) ∧
    (w.getLsbD 11 = true → w.extractLsb' 8 3 = 2 → decodeHost w = .wrFrame0 v) ∧
    (w.getLsbD 11 = true → w.extractLsb' 8 3 = 3 → decodeHost w = .wrFrame1 v) ∧
    (w.getLsbD 11 = true → w.extractLsb' 8 3 = 4 → decodeHost w = .wrFrame2 v) ∧
    (w.getLsbD 11 = true → w.extractLsb' 8 3 = 5 → decodeHost w = .wrFrame3 v) ∧
    (w.getLsbD 11 = true → w.extractLsb' 8 3 = 6 → decodeHost w = .wrFrame4 v) ∧
    (w.getLsbD 11 = true → w.extractLsb' 8 3 = 7 → decodeHost w = .wrState v) ∧
    (w.getLsbD 11 = false → w.extractLsb' 8 3 = 0 → decodeHost w = .rdCtrl v) ∧
    (w.getLsbD 11 = false → w.extractLsb' 8 3 = 1 → decodeHost w = .rdStatus v) ∧
    (w.getLsbD 11 = false → w.extractLsb' 8 3 = 2 → decodeHost w = .rdFrame0 v) ∧
    (w.getLsbD 11 = false → w.extractLsb' 8 3 = 3 → decodeHost w = .rdFrame1 v) ∧
    (w.getLsbD 11 = false → w.extractLsb' 8 3 = 4 → decodeHost w = .rdFrame2 v) ∧
    (w.getLsbD 11 = false → w.extractLsb' 8 3 = 5 → decodeHost w = .rdFrame3 v) ∧
    (w.getLsbD 11 = false → w.extractLsb' 8 3 = 6 → decodeHost w = .rdFrame4 v) ∧
    (w.getLsbD 11 = false → w.extractLsb' 8 3 = 7 → decodeHost w = .rdState v)

/-- The opcode table: every bus word and every state code belongs to the row of the instruction it decodes to,
and to no other row. -/
def Obligations.EveryCodeHasExactlyOneRow : Prop :=
  ∀ c : Code, (rowOf (decode c)).admits c = true ∧
    ∀ i : Instr, (rowOf i).admits c = true → rowOf i = rowOf (decode c)

/-- 30_encoding.md R73: the operation, the measuring flag and the target level of each state code. -/
def Obligations.StateCodeNamesItsOperation : Prop :=
  decodeState 0 = .idle ∧ decodeState 1 = .arm ∧ decodeState 2 = .busIdle ∧ decodeState 3 = .startLow ∧
  decodeState 4 = .release ∧ decodeState 5 = .ackH1 ∧ decodeState 6 = .ackL ∧ decodeState 7 = .ackH2 ∧
  decodeState 8 = .bitL ∧ decodeState 9 = .bitH ∧ decodeState 10 = .check ∧ decodeState 11 = .reserved11 ∧
  decodeState 12 = .reserved1215 12 ∧ decodeState 13 = .reserved1215 13 ∧
  decodeState 14 = .reserved1215 14 ∧ decodeState 15 = .reserved1215 15 ∧
  (∀ c : StateCode, measuring c = true ↔ c = 5 ∨ c = 6 ∨ c = 7 ∨ c = 8 ∨ c = 9) ∧
  targetLevel 5 = true ∧ targetLevel 6 = false ∧ targetLevel 7 = true ∧
  targetLevel 8 = false ∧ targetLevel 9 = true

/-- A few words written out bit by bit from 30_encoding.md R70 and R73, as spec/opcode_table.json numbers
their bits, and two that are no instruction (log entry 12). -/
def Obligations.SampleWordsDecode : Prop :=
  decodeTableWord 16 0b100000000001 = some (.start 0b00000001) ∧
  decodeTableWord 16 0b100011111110 = some (.wrCtrlNop 0b11111110) ∧
  decodeTableWord 16 0b101001010101 = some (.wrFrame0 0b01010101) ∧
  decodeTableWord 16 0b000010100101 = some (.rdCtrl 0b10100101) ∧
  decodeTableWord 16 0b011100000000 = some (.rdState 0b00000000) ∧
  decodeTableWord 8 0b1001 = some .bitH ∧
  decodeTableWord 8 0b1110 = some (.reserved1215 0b1110) ∧
  decodeTableWord 16 0b1000000000000 = none ∧
  decodeTableWord 8 0b10000 = none

/-! ## One step -/

/-- A host access that is next runs its decoded operation (reset released). The agenda is the model's order of
outside events (log entry 1). -/
def Obligations.HostAccessRunsTheDecodedOperation : Prop :=
  ∀ (s : State) (w : BusWord) (rest : List Event), s.rst = false → s.agenda = .host w :: rest →
    step s = exec (decodeHost w) { s with agenda := rest }

/-- 42_transaction_fsm.md R120: a tick that is next brings the draws and runs the micro-operation of the
current state code (reset released; agenda: log entry 1). -/
def Obligations.TickRunsTheMicroOperationOfTheState : Prop :=
  ∀ (s : State) (a v : Level) (rest : List Event), s.rst = false → s.agenda = .tick a v :: rest →
    step s = exec (decodeState s.st) { s with agenda := rest, lineIn := a, lineAvail := v }

/-- Where no outside event is listed a tick comes with free draws (log entry 2); the statement holds for
every value of them. -/
def Obligations.EmptyAgendaTicksWithFreeDraws : Prop :=
  ∀ s : State, s.rst = false → s.agenda = [] → ∃ a v : Level,
    step s = exec (decodeState s.st) { s with draws := s.draws + 1, lineIn := a, lineAvail := v }

/-- `withFetchWord` makes the very next step run the instruction with those bits (log entry 11). -/
def Obligations.FetchedWordIsWhatRuns : Prop :=
  (∀ (s : State) (w : BusWord),
    step (s.withFetchWord 16 w.toNat) = exec (decodeHost w) { s with rst := false }) ∧
  (∀ (s : State) (c : StateCode),
    step (s.withFetchWord 8 c.toNat) = exec (decodeState c) { s with st := c, rst := false })

/-- 30_encoding.md R80: nothing is illegal and nothing traps. Every step of every machine goes on. -/
def Obligations.MachineNeverStops : Prop :=
  ∀ s : State, ∃ s' : State, step s = .next s'

/-! ## Host writes -/

/-- 45_host_interface.md R200: START is accepted in IDLE, clears every transaction element and enters ARM, and
is ignored in every other state. -/
def Obligations.StartIsAcceptedOnlyInIdle : Prop :=
  ∀ (s : State) (v : Byte),
    (s.st = 0 → exec (.start v) s = .next
      { s with st := 1, done := false, result := 0, frame := ⟨0, 0, 0, 0, 0⟩,
               cnt := 0, bitidx := 0, lowdur := 0, asm := ⟨0, 0, 0, 0, 0⟩ }) ∧
    (s.st ≠ 0 → exec (.start v) s = .next s)

/-- 45_host_interface.md R201, R202: the write of CTRL with bit 0 clear and the writes to the read-only
registers change nothing. -/
def Obligations.OtherWritesChangeNothing : Prop :=
  ∀ (s : State) (v : Byte),
    exec (.wrCtrlNop v) s = .next s ∧ exec (.wrStatus v) s = .next s ∧
    exec (.wrFrame0 v) s = .next s ∧ exec (.wrFrame1 v) s = .next s ∧ exec (.wrFrame2 v) s = .next s ∧
    exec (.wrFrame3 v) s = .next s ∧ exec (.wrFrame4 v) s = .next s ∧ exec (.wrState v) s = .next s

/-- 20_memory.md R59: the only write word with an effect is one to CTRL with bit 0 set while BUSY = 0, and a
second START of a row is ignored. -/
def Obligations.OnlyAnIdleStartWrites : Prop :=
  (∀ (w : BusWord) (s : State), w.getLsbD 11 = true →
    ¬(w.extractLsb' 8 3 = 0 ∧ w.getLsbD 0 = true ∧ busy s = false) →
    exec (decodeHost w) s = .next s) ∧
  (∀ (w : BusWord) (s : State), w.getLsbD 11 = true → w.extractLsb' 8 3 = 0 → w.getLsbD 0 = true →
    busy s = false → ∃ s' : State, exec (decodeHost w) s = .next s' ∧ busy s' = true ∧
      exec (decodeHost w) s' = .next s')

/-- 42_transaction_fsm.md R132: no host access aborts or changes a transaction in flight; only the value read
moves. Memory frame: each address of the register space reads as before. -/
def Obligations.NoHostAccessDisturbsATransaction : Prop :=
  ∀ (s s' : State) (w : BusWord), s.rst = false → busy s = true → hostStep w s = .next s' →
    s' = { s with rdata := s'.rdata } ∧ ∀ a : BitVec 3, memRead a s' = memRead a s

/-! ## Host reads -/

/-- 45_host_interface.md R203: CTRL reads 0x00. -/
def Obligations.ReadControlGivesZero : Prop :=
  ∀ (s : State) (v : Byte), exec (.rdCtrl v) s = .next { s with rdata := 0x00 }

/-- 45_host_interface.md R204: STATUS reads `{0b000, RESULT, DONE, BUSY}`; while BUSY it is 0x01, and with
DONE it is one of the four completed values. -/
def Obligations.ReadStatusGivesTheFlags : Prop :=
  (∀ (s : State) (v : Byte), exec (.rdStatus v) s = .next
    { s with rdata := 0#3 ++ s.result ++ BitVec.ofBool s.done ++ BitVec.ofBool (decide (s.st ≠ 0)) }) ∧
  (∀ s : State, Safety.Inv s → busy s = true → memRead 1 s = 0x01) ∧
  (∀ s : State, Safety.Inv s → s.done = true →
    memRead 1 s = 0x02 ∨ memRead 1 s = 0x06 ∨ memRead 1 s = 0x0A ∨ memRead 1 s = 0x0E)

/-- 45_host_interface.md R205 to R209: the frame registers read the frame's bytes, 0x00 unless the last
transaction completed OK, and after an OK result the checksum rule holds of them. -/
def Obligations.ReadFrameGivesItsBytes : Prop :=
  (∀ (s : State) (v : Byte),
    exec (.rdFrame0 v) s = .next { s with rdata := s.frame.b0 } ∧
    exec (.rdFrame1 v) s = .next { s with rdata := s.frame.b1 } ∧
    exec (.rdFrame2 v) s = .next { s with rdata := s.frame.b2 } ∧
    exec (.rdFrame3 v) s = .next { s with rdata := s.frame.b3 } ∧
    exec (.rdFrame4 v) s = .next { s with rdata := s.frame.b4 }) ∧
  (∀ s : State, Safety.Inv s → ¬(s.done = true ∧ s.result = 0) → s.frame = ⟨0, 0, 0, 0, 0⟩) ∧
  (∀ s : State, Safety.Inv s → s.done = true → s.result = 0 →
    s.frame.b4.toNat = (s.frame.b0.toNat + s.frame.b1.toNat + s.frame.b2.toNat + s.frame.b3.toNat) % 256)

/-- 45_host_interface.md R210: STATE reads `{0b0000, st}`, and never 11 to 15. -/
def Obligations.ReadStateGivesTheCode : Prop :=
  (∀ (s : State) (v : Byte), exec (.rdState v) s = .next { s with rdata := 0#4 ++ s.st }) ∧
  (∀ s : State, Safety.Inv s → (memRead 7 s).toNat ≤ 10)

/-- 20_memory.md R58: a read word returns the register at its address and has no side effect; every register
reads as before, so a second read returns the same value. -/
def Obligations.ReadsHaveNoSideEffect : Prop :=
  ∀ (w : BusWord) (s : State), w.getLsbD 11 = false → ∃ s' : State,
    exec (decodeHost w) s = .next s' ∧ s' = { s with rdata := memRead (w.extractLsb' 8 3) s } ∧
    (∀ a : BitVec 3, memRead a s' = memRead a s) ∧ exec (decodeHost w) s' = .next s'

/-! ## Micro-operations, steps 1 to 3 -/

/-- 42_transaction_fsm.md R121: IDLE changes nothing, however many ticks pass. -/
def Obligations.IdleChangesNothing : Prop :=
  (∀ s : State, exec .idle s = .next s) ∧
  (∀ (s : State) (draws : List (Level × Level)), s.rst = false → s.st = 0 →
    ∃ s' : State, runEvents (ticks draws) s = .next s' ∧ sameElements s' s ∧ s'.agenda = s.agenda)

/-- 42_transaction_fsm.md R122: ARM claims the pad and drives High, or completes with ACQUISITION. -/
def Obligations.ArmClaimsThePadOrFails : Prop :=
  ∀ s : State,
    (s.lineAvail = true → exec .arm s = .next
      { s with lineOe := true, lineOut := true, linePull := 1, cnt := 0, st := 2 }) ∧
    (s.lineAvail = false → exec .arm s = .next
      { s with result := 3, done := true, st := 0, lineOe := false, lineOut := true, linePull := 1 })

/-- 42_transaction_fsm.md R123: BUS_IDLE counts, drives Low when the count reaches T_IDLE, and so lasts
exactly 1000 ticks from its entry. -/
def Obligations.BusIdleLastsItsTicks : Prop :=
  (∀ s : State,
    (s.cnt.toNat + 1 = 1000 → exec .busIdle s = .next
      { s with lineOe := true, lineOut := false, linePull := 1, cnt := 0, st := 3 }) ∧
    (s.cnt.toNat + 1 ≠ 1000 → exec .busIdle s = .next { s with cnt := s.cnt + 1 })) ∧
  (∀ (s : State) (draws : List (Level × Level)), s.rst = false → s.st = 2 → s.cnt = 0 →
    ∃ s' : State, runEvents (ticks draws) s = .next s' ∧
      (draws.length < 1000 → s'.st = 2 ∧ s'.cnt.toNat = draws.length ∧
        s'.lineOe = s.lineOe ∧ s'.lineOut = s.lineOut) ∧
      (draws.length = 1000 → s'.st = 3 ∧ s'.cnt = 0 ∧ s'.lineOe = true ∧ s'.lineOut = false))

/-- 42_transaction_fsm.md R124: START_LOW counts, drives High when the count reaches T_START, and so lasts
exactly 1100 ticks from its entry. -/
def Obligations.StartLowLastsItsTicks : Prop :=
  (∀ s : State,
    (s.cnt.toNat + 1 = 1100 → exec .startLow s = .next
      { s with lineOe := true, lineOut := true, linePull := 1, cnt := 0, st := 4 }) ∧
    (s.cnt.toNat + 1 ≠ 1100 → exec .startLow s = .next { s with cnt := s.cnt + 1 })) ∧
  (∀ (s : State) (draws : List (Level × Level)), s.rst = false → s.st = 3 → s.cnt = 0 →
    ∃ s' : State, runEvents (ticks draws) s = .next s' ∧
      (draws.length < 1100 → s'.st = 3 ∧ s'.cnt.toNat = draws.length ∧
        s'.lineOe = s.lineOe ∧ s'.lineOut = s.lineOut) ∧
      (draws.length = 1100 → s'.st = 4 ∧ s'.cnt = 0 ∧ s'.lineOe = true ∧ s'.lineOut = true))

/-- 42_transaction_fsm.md R125: RELEASE switches to Input with the pull-up kept when the count reaches T_REL,
which is 1, and otherwise counts; the samples have no say. -/
def Obligations.ReleaseSwitchesToInput : Prop :=
  ∀ s : State,
    (s.cnt.toNat + 1 = 1 → exec .release s = .next
      { s with lineOe := false, lineOut := true, linePull := 1, cnt := 0, st := 5 }) ∧
    (s.cnt.toNat + 1 ≠ 1 → exec .release s = .next { s with cnt := s.cnt + 1 })

/-! ## Micro-operations, the acknowledgement -/

/-- 42_transaction_fsm.md R126: ACK_H1 counts High samples; any duration below 200, 0 included, goes on to
ACK_L, and 200 or more is a TIMEOUT. -/
def Obligations.FirstAckHighAcceptsAnyLengthBelowTimeout : Prop :=
  ∀ s : State,
    (s.lineIn = true → s.cnt.toNat + 1 ≤ 200 → exec .ackH1 s = .next { s with cnt := s.cnt + 1 }) ∧
    (s.lineIn = true → 200 < s.cnt.toNat + 1 → exec .ackH1 s = .next
      { s with result := 1, done := true, st := 0, lineOe := false, lineOut := true, linePull := 1 }) ∧
    (s.lineIn = false → s.cnt.toNat < 200 → exec .ackH1 s = .next { s with cnt := 1, st := 6 }) ∧
    (s.lineIn = false → 200 ≤ s.cnt.toNat → exec .ackH1 s = .next
      { s with result := 1, done := true, st := 0, lineOe := false, lineOut := true, linePull := 1 })

/-- 42_transaction_fsm.md R127: ACK_L counts Low samples; a pulse of 70 to 90 passes when it ends, any other
is a TIMEOUT. -/
def Obligations.AckLowPassesOnlyInItsWindow : Prop :=
  ∀ s : State,
    (s.lineIn = false → s.cnt.toNat + 1 ≤ 200 → exec .ackL s = .next { s with cnt := s.cnt + 1 }) ∧
    (s.lineIn = false → 200 < s.cnt.toNat + 1 → exec .ackL s = .next
      { s with result := 1, done := true, st := 0, lineOe := false, lineOut := true, linePull := 1 }) ∧
    (s.lineIn = true → 70 ≤ s.cnt.toNat → s.cnt.toNat ≤ 90 → exec .ackL s = .next
      { s with cnt := 1, st := 7 }) ∧
    (s.lineIn = true → s.cnt.toNat < 70 ∨ 90 < s.cnt.toNat → exec .ackL s = .next
      { s with result := 1, done := true, st := 0, lineOe := false, lineOut := true, linePull := 1 })

/-- 42_transaction_fsm.md R128: ACK_H2 counts High samples; a pulse of 70 to 90 begins the data phase at slot
0, any other is a TIMEOUT. -/
def Obligations.SecondAckHighPassesOnlyInItsWindow : Prop :=
  ∀ s : State,
    (s.lineIn = true → s.cnt.toNat + 1 ≤ 200 → exec .ackH2 s = .next { s with cnt := s.cnt + 1 }) ∧
    (s.lineIn = true → 200 < s.cnt.toNat + 1 → exec .ackH2 s = .next
      { s with result := 1, done := true, st := 0, lineOe := false, lineOut := true, linePull := 1 }) ∧
    (s.lineIn = false → 70 ≤ s.cnt.toNat → s.cnt.toNat ≤ 90 → exec .ackH2 s = .next
      { s with cnt := 1, bitidx := 0, st := 8 }) ∧
    (s.lineIn = false → s.cnt.toNat < 70 ∨ 90 < s.cnt.toNat → exec .ackH2 s = .next
      { s with result := 1, done := true, st := 0, lineOe := false, lineOut := true, linePull := 1 })

/-- 42_transaction_fsm.md R129: a reserved state code completes with INTERNAL, and no invariant state holds
one. -/
def Obligations.ReservedCodeCompletesWithInternal : Prop :=
  (∀ s : State, exec .reserved11 s = .next
      { s with result := 4, done := true, st := 0, lineOe := false, lineOut := true, linePull := 1 }) ∧
  (∀ (s : State) (c : StateCode), exec (.reserved1215 c) s = .next
      { s with result := 4, done := true, st := 0, lineOe := false, lineOut := true, linePull := 1 }) ∧
  (∀ s : State, Safety.Inv s → ∀ c : StateCode, decodeState s.st ≠ .reserved11 ∧ decodeState s.st ≠ .reserved1215 c)

/-! ## Micro-operations, the data phase -/

/-- 43_data_phase.md R150: BIT_L counts Low samples; a duration below 200 is latched and BIT_H begins, 200 or
more is a TIMEOUT. -/
def Obligations.BitLowLatchesItsDuration : Prop :=
  ∀ s : State,
    (s.lineIn = false → s.cnt.toNat + 1 ≤ 200 → exec .bitL s = .next { s with cnt := s.cnt + 1 }) ∧
    (s.lineIn = false → 200 < s.cnt.toNat + 1 → exec .bitL s = .next
      { s with result := 1, done := true, st := 0, lineOe := false, lineOut := true, linePull := 1 }) ∧
    (s.lineIn = true → s.cnt.toNat < 200 → ∃ d : BitVec 8, d.toNat = s.cnt.toNat ∧
      exec .bitL s = .next { s with lowdur := d, cnt := 1, st := 9 }) ∧
    (s.lineIn = true → 200 ≤ s.cnt.toNat → exec .bitL s = .next
      { s with result := 1, done := true, st := 0, lineOe := false, lineOut := true, linePull := 1 })

/-- 43_data_phase.md R151, R152: BIT_H counts High samples; a duration below 200 decides the bit against the
Low duration, strictly, packs it at slot `bitidx` and goes on to the next slot or, after slot 39, to CHECK;
200 or more is a TIMEOUT. For slots 40 to 63, which no reachable state has, the packed buffer is a free
value (log entry 7), and the statement holds whatever it is. -/
def Obligations.BitHighDecidesAndPacksTheBit : Prop :=
  ∀ s : State,
    (s.lineIn = true → s.cnt.toNat + 1 ≤ 200 → exec .bitH s = .next { s with cnt := s.cnt + 1 }) ∧
    (s.lineIn = true → 200 < s.cnt.toNat + 1 → exec .bitH s = .next
      { s with result := 1, done := true, st := 0, lineOe := false, lineOut := true, linePull := 1 }) ∧
    (s.lineIn = false → s.cnt.toNat < 200 → s.lowdur.toNat < s.cnt.toNat → exec .bitH s = .next
      { s with asm := pack s.asm s.bitidx.toNat true, bitidx := s.bitidx + 1, cnt := 1,
               st := if s.bitidx.toNat = 39 then 10 else 8 }) ∧
    (s.lineIn = false → s.cnt.toNat < 200 → s.cnt.toNat ≤ s.lowdur.toNat → exec .bitH s = .next
      { s with asm := pack s.asm s.bitidx.toNat false, bitidx := s.bitidx + 1, cnt := 1,
               st := if s.bitidx.toNat = 39 then 10 else 8 }) ∧
    (s.lineIn = false → 200 ≤ s.cnt.toNat → exec .bitH s = .next
      { s with result := 1, done := true, st := 0, lineOe := false, lineOut := true, linePull := 1 })

/-- 43_data_phase.md R153 with 20_memory.md R54: packing slot `i` sets bit `7 - i mod 8` of byte `i / 8` and
leaves every other slot alone. -/
def Obligations.PackWritesOneSlot : Prop :=
  (∀ (a : Frame) (i : Nat) (b : Bool), i < 40 →
    slotBit (pack a i b) i = b ∧ ∀ j : Nat, j < 40 → j ≠ i → slotBit (pack a i b) j = slotBit a j) ∧
  (∀ (f : Frame) (j : Nat), j < 8 →
    slotBit f j = f.b0.getLsbD (7 - j) ∧ slotBit f (8 + j) = f.b1.getLsbD (7 - j) ∧
    slotBit f (16 + j) = f.b2.getLsbD (7 - j) ∧ slotBit f (24 + j) = f.b3.getLsbD (7 - j) ∧
    slotBit f (32 + j) = f.b4.getLsbD (7 - j))

/-- 43_data_phase.md R154, R155: CHECK publishes the buffer and completes with OK where byte 4 is the sum of
the others modulo 256, and otherwise completes with CHECKSUM and leaves FRAME alone. The test itself takes
the low byte of a 16-bit sum that never wraps. -/
def Obligations.CheckPublishesOnlyASoundFrame : Prop :=
  (∀ f : Frame, (sum16 f).toNat = f.b0.toNat + f.b1.toNat + f.b2.toNat + f.b3.toNat ∧
    (checksumOk f = true ↔ f.b4 = (sum16 f).extractLsb' 0 8) ∧
    (checksumOk f = true ↔
      f.b4.toNat = (f.b0.toNat + f.b1.toNat + f.b2.toNat + f.b3.toNat) % 256)) ∧
  ∀ s : State,
    (s.asm.b4.toNat = (s.asm.b0.toNat + s.asm.b1.toNat + s.asm.b2.toNat + s.asm.b3.toNat) % 256 →
      exec .check s = .next
        { s with frame := s.asm, result := 0, done := true, st := 0,
                 lineOe := false, lineOut := true, linePull := 1 }) ∧
    (s.asm.b4.toNat ≠ (s.asm.b0.toNat + s.asm.b1.toNat + s.asm.b2.toNat + s.asm.b3.toNat) % 256 →
      exec .check s = .next
        { s with result := 2, done := true, st := 0,
                 lineOe := false, lineOut := true, linePull := 1 })

/-! ## The Pulse Timer -/

/-- 41_pulse_timer.md R101: one step of the Pulse Timer. -/
def Obligations.PulseTimerStep : Prop :=
  ∀ (v s : Level) (c : Nat),
    (s ≠ v → pt v c s = .finish c) ∧
    (s = v → 200 < c + 1 → pt v c s = .finish (c + 1)) ∧
    (s = v → c + 1 ≤ 200 → pt v c s = .cont (c + 1))

/-- 41_pulse_timer.md R102: a measurement from count `c0` over `L` samples at the target ends with
`min(c0 + L, 201)`, at the first differing sample or where the count reaches 201, whichever comes first: the
samples after that one are left over. -/
def Obligations.MeasurementDurationIsTheRunLength : Prop :=
  (∀ (v : Level) (c0 n : Nat) (rest : List Level), c0 + n ≤ 200 →
    duration v c0 (List.replicate n v ++ (!v) :: rest) = some (c0 + n, rest)) ∧
  (∀ (v : Level) (c0 n : Nat) (rest : List Level), c0 ≤ 200 → c0 + n = 201 →
    duration v c0 (List.replicate n v ++ rest) = some (201, rest))

/-- 41_pulse_timer.md R103: ACK_H1 is entered with count 0; every other measuring state is entered from another
measuring state with count 1, by a sample already at its target level. -/
def Obligations.MeasurementBeginsWithItsFirstSample : Prop :=
  ∀ (s s' : State) (a v : Level), s.rst = false → engineStep a v s = .next s' →
    measuring s'.st = true → s'.st ≠ s.st →
    (s'.st = 5 → s.st = 4 ∧ s'.cnt = 0) ∧
    (s'.st ≠ 5 → measuring s.st = true ∧ s'.cnt = 1 ∧ a = targetLevel s'.st)

/-- 41_pulse_timer.md R106, R108: while a measurement goes on only `cnt` (and the sampled ports) changes, and
`cnt` stays at most 200. -/
def Obligations.MeasuringChangesOnlyTheCount : Prop :=
  ∀ (s s' : State) (a v : Level), s.rst = false → measuring s.st = true →
    engineStep a v s = .next s' → s'.st = s.st →
    s' = { s with cnt := s.cnt + 1, lineIn := a, lineAvail := v } ∧ s'.cnt.toNat ≤ 200

/-- 41_pulse_timer.md R109, 70_reset_and_hazards.md R271: in a measuring state, samples at the target level
keep the engine there, one count a tick, until the count would exceed 200, and the tick after count 200 ends
the transaction with TIMEOUT. -/
def Obligations.StuckLineTimesOut : Prop :=
  ∀ (s : State) (draws : List Level), s.rst = false → measuring s.st = true → s.cnt.toNat ≤ 200 →
    ∃ s' : State,
      runEvents (ticks ((List.replicate draws.length (targetLevel s.st)).zip draws)) s = .next s' ∧
      (s.cnt.toNat + draws.length ≤ 200 → s'.st = s.st ∧ s'.cnt.toNat = s.cnt.toNat + draws.length) ∧
      (200 < s.cnt.toNat + draws.length → s'.st = 0 ∧ s'.done = true ∧ s'.result = 1)

/-! ## Completion -/

/-- 60_exceptions.md R236: an engine step that ends a transaction writes RESULT, sets DONE, returns to IDLE and
releases the line; the counters and the buffer keep their values, and FRAME changes only with OK. -/
def Obligations.CompletionReleasesTheLineAndRecordsTheCode : Prop :=
  ∀ (s s' : State) (a v : Level), s.rst = false → busy s = true →
    engineStep a v s = .next s' → s'.st = 0 →
    ∃ code : BitVec 3, s' = { s with
      result := code, done := true, st := 0, lineOe := false, lineOut := true, linePull := 1,
      frame := if code = 0 then s.asm else s.frame, lineIn := a, lineAvail := v }

/-- 60_exceptions.md R231 to R235: a busy engine completes with each code exactly on that code's causes. -/
def Obligations.EachResultHasItsCauses : Prop :=
  ∀ (s s' : State) (a v : Level), s.rst = false → busy s = true → Safety.Inv s → engineStep a v s = .next s' →
    ((s'.st = 0 ∧ s'.result = 1) ↔ ∃ d : Nat, pt (targetLevel s.st) s.cnt.toNat a = .finish d ∧
      ((s.st = 5 ∧ 200 ≤ d) ∨ (s.st = 6 ∧ (d < 70 ∨ 90 < d)) ∨ (s.st = 7 ∧ (d < 70 ∨ 90 < d)) ∨
        (s.st = 8 ∧ 200 ≤ d) ∨ (s.st = 9 ∧ 200 ≤ d))) ∧
    ((s'.st = 0 ∧ s'.result = 2) ↔ s.st = 10 ∧ checksumOk s.asm = false) ∧
    ((s'.st = 0 ∧ s'.result = 3) ↔ s.st = 1 ∧ v = false) ∧
    (s'.result ≠ 4) ∧
    ((s'.st = 0 ∧ s'.result = 0) ↔ s.st = 10 ∧ checksumOk s.asm = true)

/-- 10_state.md R23, R35, 60_exceptions.md R240: DONE, and with it `irq`, is set by a completing engine step and
cleared by an accepted START or by reset, and by nothing else. It is 0 at reset. -/
def Obligations.DoneChangesOnlyByCompletionStartOrReset : Prop :=
  State.reset.done = false ∧ ∀ s s' : State, step s = .next s' →
    irq s' = s'.done ∧
    (s.done = false → s'.done = true →
      busy s = true ∧ s'.st = 0 ∧ (s.agenda = [] ∨ ∃ a v rest, s.agenda = .tick a v :: rest)) ∧
    (s.done = true → s'.done = false →
      (s.st = 0 ∧ s'.st = 1 ∧ ∃ v w rest, s.agenda = .host w :: rest ∧ decodeHost w = .start v) ∨
      s.rst = true ∨ ∃ rest, s.agenda = .rst true :: rest)

/-- 43_data_phase.md R156, 10_state.md R25: FRAME is written, all five bytes in one step, only by a CHECK step
whose checksum matches, by an accepted START or by reset. After a failed transaction it holds 0x00. -/
def Obligations.FrameIsWrittenOnlyByASuccessfulCheck : Prop :=
  (∀ s : State, Safety.Inv s → s.done = true → s.result ≠ 0 → s.frame = ⟨0, 0, 0, 0, 0⟩) ∧
  ∀ s s' : State, step s = .next s' → s'.frame ≠ s.frame →
    (s.st = 10 ∧ checksumOk s.asm = true ∧ s'.frame = s.asm ∧ s'.done = true ∧ s'.result = 0 ∧
      (s.agenda = [] ∨ ∃ a v rest, s.agenda = .tick a v :: rest)) ∨
    (s'.frame = ⟨0, 0, 0, 0, 0⟩ ∧
      ((s.st = 0 ∧ s'.st = 1 ∧ ∃ v w rest, s.agenda = .host w :: rest ∧ decodeHost w = .start v) ∨
        s.rst = true ∨ ∃ rest, s.agenda = .rst true :: rest))

/-! ## Whole-machine rules -/

/-- 42_transaction_fsm.md R130: ticks visit the states in the order of the rule, from every legal state, and a
host access moves the engine only from IDLE to ARM. -/
def Obligations.StatesAreVisitedInOrder : Prop :=
  (∀ (s s' : State) (a v : Level), s.rst = false → engineStep a v s = .next s' →
    mayFollow s.st s'.st = true) ∧
  (∀ (s s' : State) (w : BusWord), s.rst = false → hostStep w s = .next s' →
    s'.st = s.st ∨ (s.st = 0 ∧ s'.st = 1))

/-- 10_state.md R31, R32, 42_transaction_fsm.md R120, R133: outside the measuring states the sample has no
effect, and outside ARM the availability has none. -/
def Obligations.DrawsAreReadOnlyWhereTheRulesSay : Prop :=
  (∀ (s : State) (a b v : Level), s.rst = false → measuring s.st = false → ∃ t : State,
    engineStep a v s = .next t ∧ engineStep b v s = .next { t with lineIn := b }) ∧
  (∀ (s : State) (a v u : Level), s.rst = false → s.st ≠ 1 → ∃ t : State,
    engineStep a v s = .next t ∧ engineStep a u s = .next { t with lineAvail := u })

/-- 70_reset_and_hazards.md R260, R261: asserting reset sets every state element at once, whatever the engine is
doing; while it is asserted every step leaves them there, the step that releases it included, and a read
returns the reset value. A transaction in flight ends only by completion or by reset. What the ports, `rdata`
and the agenda do at a reset is the model's choice (log entry 5). -/
def Obligations.ResetTakesEffectAtOnceAndHolds : Prop :=
  (∀ (s : State) (rest : List Event), s.agenda = .rst true :: rest →
    step s = .next { State.reset with
      rst := true, lineIn := s.lineIn, lineAvail := s.lineAvail, rdata := s.rdata,
      agenda := rest, draws := s.draws }) ∧
  (∀ s s' : State, s.rst = true → step s = .next s' → sameElements s' State.reset) ∧
  (∀ (s : State) (w : BusWord), s.rst = true → w.getLsbD 11 = false → ∃ s' : State,
    hostStep w s = .next s' ∧ s'.rdata = memRead (w.extractLsb' 8 3) State.reset) ∧
  (∀ s s' : State, busy s = true → step s = .next s' → s'.st = 0 →
    s'.done = true ∨ s.rst = true ∨ ∃ rest, s.agenda = .rst true :: rest)

/-- 10_state.md R39: the reset value of every state element, and of what is derived from them. -/
def Obligations.ResetValues : Prop :=
  State.reset.st = 0 ∧ State.reset.done = false ∧ State.reset.result = 0 ∧
  State.reset.frame = ⟨0, 0, 0, 0, 0⟩ ∧ State.reset.cnt = 0 ∧ State.reset.bitidx = 0 ∧
  State.reset.lowdur = 0 ∧ State.reset.asm = ⟨0, 0, 0, 0, 0⟩ ∧ State.reset.lineOe = false ∧
  State.reset.lineOut = true ∧ State.reset.linePull = 0b01 ∧ busy State.reset = false ∧
  irq State.reset = false ∧ memRead 1 State.reset = 0x00 ∧ memRead 7 State.reset = 0x00

/-- The invariants hold right after reset (10_state.md R39, R40 and the bounds of Sys2Proof/Safety.lean). -/
def Obligations.ResetMeetsTheInvariant : Prop := EngineInv State.reset ∧ Safety.Inv State.reset

/-- 10_state.md R40: every step of every machine that meets the rule's invariants keeps them. -/
def Obligations.EveryStepKeepsTheEngineInvariant : Prop :=
  ∀ s s' : State, EngineInv s → step s = .next s' → EngineInv s'

/-- The whole invariant of Sys2Proof/Safety.lean is kept by every step: the bounds of `cnt`, `bitidx` and
`lowdur`, the unreached state and result codes, the untouched slots of the buffer, the checksum of a published
frame, and the reset values under reset. -/
def Obligations.EveryStepKeepsTheWholeInvariant : Prop :=
  ∀ s s' : State, Safety.Inv s → step s = .next s' → Safety.Inv s'

/-! ## Whole transactions -/

/-- 42_transaction_fsm.md R131: the driven waveform of a transaction whose pad is available, after each number
of ticks from the accepted START, whatever the samples are. -/
def Obligations.DrivenWaveform : Prop :=
  ∀ (s : State) (draws : List (Level × Level)), EngineInv s → s.rst = false → s.st = 0 →
    (∀ d, draws.head? = some d → d.2 = true) →
    ∃ s' : State, runEvents (.host 0x801 :: ticks draws) s = .next s' ∧ s'.linePull = 1 ∧
      (draws.length = 0 → s'.lineOe = false ∧ s'.lineOut = true) ∧
      (1 ≤ draws.length → draws.length ≤ 1000 → s'.lineOe = true ∧ s'.lineOut = true) ∧
      (1001 ≤ draws.length → draws.length ≤ 2100 → s'.lineOe = true ∧ s'.lineOut = false) ∧
      (draws.length = 2101 → s'.lineOe = true ∧ s'.lineOut = true) ∧
      (draws.length = 2102 → s'.st = 5 ∧ s'.cnt = 0) ∧
      (2102 ≤ draws.length → s'.lineOe = false ∧ s'.lineOut = true)

/-- 43_data_phase.md R158: deciding each bit as its High pulse ends gives the result of deciding all 40 bits
after all 80 measurements. For every 40 pulse pairs, from the entry of the data phase: TIMEOUT with no frame
if some pulse reaches 200; otherwise slot `i` of the buffer is 1 exactly where pair `i`'s High is longer than
its Low, and the checksum decides between OK with that frame and CHECKSUM with none. -/
def Obligations.DecidingAtOnceEqualsDecidingAtTheEnd : Prop :=
  ∀ (s : State) (pulses : List (Nat × Nat)), s.rst = false → s.st = 8 → s.cnt = 1 → s.bitidx = 0 →
    pulses.length = 40 → (∀ p ∈ pulses, 1 ≤ p.1 ∧ 1 ≤ p.2) →
    ∃ s' : State, runEvents (slotPulses pulses ++ lows 2).tail s = .next s' ∧
      s'.st = 0 ∧ s'.done = true ∧
      ((∃ p ∈ pulses, 200 ≤ p.1 ∨ 200 ≤ p.2) → s'.result = 1 ∧ s'.frame = s.frame) ∧
      ((∀ p ∈ pulses, p.1 < 200 ∧ p.2 < 200) →
        (∀ (i : Nat) (p : Nat × Nat), pulses[i]? = some p → slotBit s'.asm i = decide (p.1 < p.2)) ∧
        (checksumOk s'.asm = true → s'.result = 0 ∧ s'.frame = s'.asm) ∧
        (checksumOk s'.asm = false → s'.result = 2 ∧ s'.frame = s.frame))

/-- The whole transaction (42_transaction_fsm.md, 43_data_phase.md, 70_reset_and_hazards.md R271): for every
acknowledgement inside its limits and every 40 data pulse pairs below the timeout, a START from IDLE ends at
exactly tick `2102 + a1 + a2 + a3 + (all data pulses) + 2`, being in CHECK one tick before, and publishes the
decoded frame where its checksum matches. -/
def Obligations.WellTimedTransactionDeliversItsFrame : Prop :=
  ∀ (s : State) (setup : List (Level × Level)) (a1 a2 a3 : Nat) (pulses : List (Nat × Nat)),
    s.rst = false → s.st = 0 →
    setup.length = 2102 → (∀ d, setup.head? = some d → d.2 = true) →
    a1 < 200 → 70 ≤ a2 → a2 ≤ 90 → 70 ≤ a3 → a3 ≤ 90 →
    pulses.length = 40 → (∀ p ∈ pulses, 1 ≤ p.1 ∧ p.1 < 200 ∧ 1 ≤ p.2 ∧ p.2 < 200) →
    ∃ c s' : State,
      runEvents (.host 0x801 :: ticks setup ++ highs a1 ++ lows a2 ++ highs a3
        ++ slotPulses pulses ++ lows 1) s = .next c ∧ c.st = 10 ∧
      runEvents (.host 0x801 :: ticks setup ++ highs a1 ++ lows a2 ++ highs a3
        ++ slotPulses pulses ++ lows 2) s = .next s' ∧ s'.st = 0 ∧ s'.done = true ∧
      (∀ (i : Nat) (p : Nat × Nat), pulses[i]? = some p → slotBit s'.asm i = decide (p.1 < p.2)) ∧
      (checksumOk s'.asm = true → s'.result = 0 ∧ s'.frame = s'.asm) ∧
      (checksumOk s'.asm = false → s'.result = 2 ∧ s'.frame = ⟨0, 0, 0, 0, 0⟩)

/-- 70_reset_and_hazards.md R273: with the nominal pulses of any frame a START from IDLE delivers that frame
where its checksum matches and CHECKSUM otherwise, at tick `2293 + 54*40 + 70*n1 + 50*n0 + 1` and not one
tick before. -/
def Obligations.NominalStimulusReadsBackTheFrame : Prop :=
  ∀ (s : State) (f : Frame) (n1 : Nat), s.rst = false → s.st = 0 →
    n1 = ((List.range 40).filter fun i => slotBit f i).length →
    (setupTicks ++ nominal f).length = 2293 + 54 * 40 + 70 * n1 + 50 * (40 - n1) + 1 ∧
    (∃ c : State, runEvents (.host 0x801 :: setupTicks ++ nominal f).dropLast s = .next c ∧
      busy c = true ∧ c.done = false) ∧
    ∃ s' : State, runEvents (.host 0x801 :: setupTicks ++ nominal f) s = .next s' ∧
      s'.st = 0 ∧ s'.done = true ∧ s'.asm = f ∧
      (checksumOk f = true → s'.result = 0 ∧ s'.frame = f) ∧
      (checksumOk f = false → s'.result = 2 ∧ s'.frame = ⟨0, 0, 0, 0, 0⟩)

/-- 70_reset_and_hazards.md R272: every transaction completes within 18403 ticks of its START, whatever the
environment does, and some transaction is still busy after 18402. -/
def Obligations.EveryTransactionEndsWithinTheBound : Prop :=
  (∀ (s : State) (draws : List (Level × Level)), s.rst = false → s.st = 0 →
    draws.length = 18403 →
    ∃ (n : Nat) (s' : State), n ≤ 18403 ∧
      runEvents (.host 0x801 :: ticks (draws.take n)) s = .next s' ∧ s'.st = 0 ∧ s'.done = true) ∧
  (∃ (draws : List (Level × Level)) (s' : State), draws.length = 18402 ∧
    runEvents (.host 0x801 :: ticks draws) State.reset = .next s' ∧ busy s' = true)

/-- 44_decoders.md R187: both caller operations always end with a completed transaction and return the decoded
value of its frame where RESULT = OK, and the error RESULT names otherwise. The poll lets one tick pass a
turn (log entry 16). -/
def Obligations.CallerOperationsAlwaysAnswer : Prop :=
  ∀ (s : State) (env : Nat → Level × Level), s.rst = false → s.st = 0 →
    ∃ s' : State, s'.st = 0 ∧ s'.done = true ∧
      readTemperature env s = some (if s'.result = 0 then .ok (temperatureTenths s'.frame)
        else .error (errorOfResult s'.result), s') ∧
      readHumidity env s = some (if s'.result = 0 then .ok (humidityTenths s'.frame)
        else .error (errorOfResult s'.result), s')

/-! ## Host-side functions and the configuration -/

/-- 44_decoders.md R181, R182: the temperature is sign-magnitude in tenths, and stays within 3276.7. -/
def Obligations.TemperatureIsSignMagnitude : Prop :=
  ∀ b : Frame,
    (b.b2.toNat < 128 → temperature b = ((b.b2.toNat * 256 + b.b3.toNat : Nat) : ℚ) / 10) ∧
    (128 ≤ b.b2.toNat → temperature b = -(((b.b2.toNat - 128) * 256 + b.b3.toNat : Nat) : ℚ) / 10) ∧
    -32767 / 10 ≤ temperature b ∧ temperature b ≤ 32767 / 10

/-- 44_decoders.md R183, R184: the humidity is unsigned in tenths, between 0.0 and 6553.5. -/
def Obligations.HumidityIsUnsigned : Prop :=
  ∀ b : Frame, humidity b = ((b.b0.toNat * 256 + b.b1.toNat : Nat) : ℚ) / 10 ∧
    0 ≤ humidity b ∧ humidity b ≤ 65535 / 10

/-- 30_encoding.md R84, R85: the words of host program lines, and text lines that stand for them (separators of
the text: log entry 17). -/
def Obligations.HostLinesAssemble : Prop :=
  (∀ (r : HostReg) (v : Byte),
    (HostLine.wr r v).words = [1#1 ++ r.addr ++ v] ∧ (HostLine.rd r).words = [0#1 ++ r.addr ++ 0x00#8]) ∧
  HostLine.start.words = [0x801] ∧
  HostLine.readframe.words = [0x200, 0x300, 0x400, 0x500, 0x600] ∧
  parseLine "WR ctrl, 0x01 ; begin".toList = .ok (some (.wr .ctrl 0x01)) ∧
  parseLine "rd FRAME3".toList = .ok (some (.rd .frame3)) ∧
  parseLine "wr State, 0b101".toList = .ok (some (.wr .state 5))

/-- 00_scope.md R8: a configuration is accepted exactly where it meets the constraints, and this hardware's does. -/
def Obligations.ConfigurationIsAcceptedByItsConstraints : Prop :=
  (∀ p : Config.Params, (∃ c : Config.Accepted, Config.accept p = some c ∧ c.toParams = p) ↔
    (1 ≤ p.tRel ∧ 1 ≤ p.tIdle ∧ 1 ≤ p.tStart) ∧
    (p.tIdle < 2 ^ p.cntW ∧ p.tStart < 2 ^ p.cntW ∧ p.tRel < 2 ^ p.cntW ∧ p.tTimeout + 1 < 2 ^ p.cntW) ∧
    p.tTimeout + 1 < 2 ^ p.lowdurW ∧ (p.ackMin ≤ p.ackMax ∧ p.ackMax < p.tTimeout) ∧
    (p.nBits = 8 * p.nBytes ∧ p.nBits < 2 ^ p.bitidxW)) ∧
  Config.accept Config.dpeParams = some Config.dpe
end

