-- ==== Sys2Proof/Laws/Decode.lean ====
section
/-! SUPPORT. The fields of a bus word, as numbers and back: what the encoder concatenates the decoder takes
apart. -/

namespace Sys2Proof

/-! ## Register numbers -/

@[simp] theorem ofAddr_addr (r : HostReg) : HostReg.ofAddr r.addr = r := by cases r <;> rfl

@[simp] theorem addr_ofAddr : ∀ a : BitVec 3, (HostReg.ofAddr a).addr = a := by decide

/-! ## The word as a number -/

theorem busWord_toNat (we : Bool) (r : HostReg) (v : Byte) :
    (busWord we r v).toNat = we.toNat * 2048 + r.addr.toNat * 256 + v.toNat := by
  have h1 : (BitVec.ofBool we ++ r.addr).toNat = we.toNat * 8 + r.addr.toNat := by
    rw [BitVec.toNat_append, ← Nat.shiftLeft_add_eq_or_of_lt r.addr.isLt, Nat.shiftLeft_eq]
    simp
  have h2 : ((BitVec.ofBool we ++ r.addr) ++ v).toNat = (BitVec.ofBool we ++ r.addr).toNat * 256 + v.toNat := by
    rw [BitVec.toNat_append, ← Nat.shiftLeft_add_eq_or_of_lt v.isLt, Nat.shiftLeft_eq]
  have h3 : (busWord we r v).toNat = ((BitVec.ofBool we ++ r.addr) ++ v).toNat := by rw [busWord]
  rw [h3, h2, h1]
  ring

theorem fieldWdata_toNat (w : BusWord) : (fieldWdata w).toNat = w.toNat % 256 := by
  simp [fieldWdata]

theorem fieldAddr_toNat (w : BusWord) : (fieldAddr w).toNat = w.toNat / 256 % 8 := by
  simp [fieldAddr, Nat.shiftRight_eq_div_pow]

theorem fieldWe_eq (w : BusWord) : fieldWe w = decide (2048 ≤ w.toNat) := by
  have h : w.toNat < 4096 := w.isLt
  rw [fieldWe, BitVec.getLsbD, Nat.testBit_eq_decide_div_mod_eq]
  exact decide_eq_decide.mpr (by omega)

/-! ## Taking a word apart -/

@[simp] theorem fieldWdata_busWord (we : Bool) (r : HostReg) (v : Byte) : fieldWdata (busWord we r v) = v := by
  apply BitVec.eq_of_toNat_eq
  rw [fieldWdata_toNat, busWord_toNat]
  have := v.isLt
  omega

@[simp] theorem fieldAddr_busWord (we : Bool) (r : HostReg) (v : Byte) :
    fieldAddr (busWord we r v) = r.addr := by
  apply BitVec.eq_of_toNat_eq
  rw [fieldAddr_toNat, busWord_toNat]
  have := v.isLt
  have := r.addr.isLt
  omega

@[simp] theorem fieldWe_busWord (we : Bool) (r : HostReg) (v : Byte) : fieldWe (busWord we r v) = we := by
  rw [fieldWe_eq, busWord_toNat]
  have := v.isLt
  have := r.addr.isLt
  cases we <;> simp <;> omega

/-- A word is its three fields. -/
theorem busWord_fields (w : BusWord) :
    busWord (fieldWe w) (HostReg.ofAddr (fieldAddr w)) (fieldWdata w) = w := by
  apply BitVec.eq_of_toNat_eq
  rw [busWord_toNat, addr_ofAddr, fieldAddr_toNat, fieldWdata_toNat, fieldWe_eq]
  have h : w.toNat < 4096 := w.isLt
  by_cases hw : 2048 ≤ w.toNat <;> simp [hw] <;> omega

theorem decodeHost_busWord (we : Bool) (r : HostReg) (v : Byte) :
    decodeHost (busWord we r v) = if we then decodeWrite v r else decodeRead v r := by
  simp [decodeHost]

/-- What holds of every word put together from fields holds of every word. -/
theorem forall_busWord {P : BusWord → Prop} (h : ∀ we r v, P (busWord we r v)) (w : BusWord) : P w := by
  rw [← busWord_fields w]
  exact h _ _ _

/-! ## Words in bytes -/

theorem hostBytes_toNat (hi lo : Byte) :
    (hi.extractLsb' 0 4 ++ lo).toNat = hi.toNat % 16 * 256 + lo.toNat := by
  rw [BitVec.toNat_append, ← Nat.shiftLeft_add_eq_or_of_lt lo.isLt, Nat.shiftLeft_eq]
  simp

theorem lowByte_toNat (w : BusWord) : (w.extractLsb' 0 8).toNat = w.toNat % 256 := by simp

theorem highByte_toNat (w : BusWord) : ((w.extractLsb' 8 4).zeroExtend 8).toNat = w.toNat / 256 := by
  have h : w.toNat < 4096 := w.isLt
  simp [Nat.shiftRight_eq_div_pow]
  omega

end Sys2Proof
end

