-- ==== Sys2Proof/Laws/State.lean ====
section
/-! SUPPORT. One lemma for each field and each named update of the state, true by unfolding, so that no later
proof unfolds a record update. -/

namespace Sys2Proof.Machine

/-! ## `drive` -/

@[simp] theorem drive_st (oe : Bool) (out : Level) (p : BitVec 2) (s : State) : (drive oe out p s).st = s.st := rfl
@[simp] theorem drive_done (oe : Bool) (out : Level) (p : BitVec 2) (s : State) : (drive oe out p s).done = s.done := rfl
@[simp] theorem drive_result (oe : Bool) (out : Level) (p : BitVec 2) (s : State) : (drive oe out p s).result = s.result := rfl
@[simp] theorem drive_frame (oe : Bool) (out : Level) (p : BitVec 2) (s : State) : (drive oe out p s).frame = s.frame := rfl
@[simp] theorem drive_cnt (oe : Bool) (out : Level) (p : BitVec 2) (s : State) : (drive oe out p s).cnt = s.cnt := rfl
@[simp] theorem drive_bitidx (oe : Bool) (out : Level) (p : BitVec 2) (s : State) : (drive oe out p s).bitidx = s.bitidx := rfl
@[simp] theorem drive_lowdur (oe : Bool) (out : Level) (p : BitVec 2) (s : State) : (drive oe out p s).lowdur = s.lowdur := rfl
@[simp] theorem drive_asm (oe : Bool) (out : Level) (p : BitVec 2) (s : State) : (drive oe out p s).asm = s.asm := rfl
@[simp] theorem drive_lineOe (oe : Bool) (out : Level) (p : BitVec 2) (s : State) : (drive oe out p s).lineOe = oe := rfl
@[simp] theorem drive_lineOut (oe : Bool) (out : Level) (p : BitVec 2) (s : State) : (drive oe out p s).lineOut = out := rfl
@[simp] theorem drive_linePull (oe : Bool) (out : Level) (p : BitVec 2) (s : State) : (drive oe out p s).linePull = p := rfl
@[simp] theorem drive_rst (oe : Bool) (out : Level) (p : BitVec 2) (s : State) : (drive oe out p s).rst = s.rst := rfl
@[simp] theorem drive_lineIn (oe : Bool) (out : Level) (p : BitVec 2) (s : State) : (drive oe out p s).lineIn = s.lineIn := rfl
@[simp] theorem drive_lineAvail (oe : Bool) (out : Level) (p : BitVec 2) (s : State) : (drive oe out p s).lineAvail = s.lineAvail := rfl
@[simp] theorem drive_rdata (oe : Bool) (out : Level) (p : BitVec 2) (s : State) : (drive oe out p s).rdata = s.rdata := rfl
@[simp] theorem drive_agenda (oe : Bool) (out : Level) (p : BitVec 2) (s : State) : (drive oe out p s).agenda = s.agenda := rfl
@[simp] theorem drive_draws (oe : Bool) (out : Level) (p : BitVec 2) (s : State) : (drive oe out p s).draws = s.draws := rfl

/-! ## `complete` -/

@[simp] theorem complete_st (code : BitVec 3) (s : State) : (complete code s).st = stIdle := rfl
@[simp] theorem complete_done (code : BitVec 3) (s : State) : (complete code s).done = true := rfl
@[simp] theorem complete_result (code : BitVec 3) (s : State) : (complete code s).result = code := rfl
@[simp] theorem complete_frame (code : BitVec 3) (s : State) : (complete code s).frame = s.frame := rfl
@[simp] theorem complete_cnt (code : BitVec 3) (s : State) : (complete code s).cnt = s.cnt := rfl
@[simp] theorem complete_bitidx (code : BitVec 3) (s : State) : (complete code s).bitidx = s.bitidx := rfl
@[simp] theorem complete_lowdur (code : BitVec 3) (s : State) : (complete code s).lowdur = s.lowdur := rfl
@[simp] theorem complete_asm (code : BitVec 3) (s : State) : (complete code s).asm = s.asm := rfl
@[simp] theorem complete_lineOe (code : BitVec 3) (s : State) : (complete code s).lineOe = false := rfl
@[simp] theorem complete_lineOut (code : BitVec 3) (s : State) : (complete code s).lineOut = true := rfl
@[simp] theorem complete_linePull (code : BitVec 3) (s : State) : (complete code s).linePull = pullUp := rfl
@[simp] theorem complete_rst (code : BitVec 3) (s : State) : (complete code s).rst = s.rst := rfl
@[simp] theorem complete_lineIn (code : BitVec 3) (s : State) : (complete code s).lineIn = s.lineIn := rfl
@[simp] theorem complete_lineAvail (code : BitVec 3) (s : State) : (complete code s).lineAvail = s.lineAvail := rfl
@[simp] theorem complete_rdata (code : BitVec 3) (s : State) : (complete code s).rdata = s.rdata := rfl
@[simp] theorem complete_agenda (code : BitVec 3) (s : State) : (complete code s).agenda = s.agenda := rfl
@[simp] theorem complete_draws (code : BitVec 3) (s : State) : (complete code s).draws = s.draws := rfl

/-! ## `setCnt` -/

@[simp] theorem setCnt_st (c : Nat) (s : State) : (setCnt c s).st = s.st := rfl
@[simp] theorem setCnt_done (c : Nat) (s : State) : (setCnt c s).done = s.done := rfl
@[simp] theorem setCnt_result (c : Nat) (s : State) : (setCnt c s).result = s.result := rfl
@[simp] theorem setCnt_frame (c : Nat) (s : State) : (setCnt c s).frame = s.frame := rfl
@[simp] theorem setCnt_cnt (c : Nat) (s : State) : (setCnt c s).cnt = BitVec.ofNat 16 c := rfl
@[simp] theorem setCnt_bitidx (c : Nat) (s : State) : (setCnt c s).bitidx = s.bitidx := rfl
@[simp] theorem setCnt_lowdur (c : Nat) (s : State) : (setCnt c s).lowdur = s.lowdur := rfl
@[simp] theorem setCnt_asm (c : Nat) (s : State) : (setCnt c s).asm = s.asm := rfl
@[simp] theorem setCnt_lineOe (c : Nat) (s : State) : (setCnt c s).lineOe = s.lineOe := rfl
@[simp] theorem setCnt_lineOut (c : Nat) (s : State) : (setCnt c s).lineOut = s.lineOut := rfl
@[simp] theorem setCnt_linePull (c : Nat) (s : State) : (setCnt c s).linePull = s.linePull := rfl
@[simp] theorem setCnt_rst (c : Nat) (s : State) : (setCnt c s).rst = s.rst := rfl
@[simp] theorem setCnt_lineIn (c : Nat) (s : State) : (setCnt c s).lineIn = s.lineIn := rfl
@[simp] theorem setCnt_lineAvail (c : Nat) (s : State) : (setCnt c s).lineAvail = s.lineAvail := rfl
@[simp] theorem setCnt_rdata (c : Nat) (s : State) : (setCnt c s).rdata = s.rdata := rfl
@[simp] theorem setCnt_agenda (c : Nat) (s : State) : (setCnt c s).agenda = s.agenda := rfl
@[simp] theorem setCnt_draws (c : Nat) (s : State) : (setCnt c s).draws = s.draws := rfl

/-! ## `advance` -/

@[simp] theorem advance_st (st' : StateCode) (c : Nat) (s : State) : (advance st' c s).st = st' := rfl
@[simp] theorem advance_done (st' : StateCode) (c : Nat) (s : State) : (advance st' c s).done = s.done := rfl
@[simp] theorem advance_result (st' : StateCode) (c : Nat) (s : State) : (advance st' c s).result = s.result := rfl
@[simp] theorem advance_frame (st' : StateCode) (c : Nat) (s : State) : (advance st' c s).frame = s.frame := rfl
@[simp] theorem advance_cnt (st' : StateCode) (c : Nat) (s : State) : (advance st' c s).cnt = BitVec.ofNat 16 c := rfl
@[simp] theorem advance_bitidx (st' : StateCode) (c : Nat) (s : State) : (advance st' c s).bitidx = s.bitidx := rfl
@[simp] theorem advance_lowdur (st' : StateCode) (c : Nat) (s : State) : (advance st' c s).lowdur = s.lowdur := rfl
@[simp] theorem advance_asm (st' : StateCode) (c : Nat) (s : State) : (advance st' c s).asm = s.asm := rfl
@[simp] theorem advance_lineOe (st' : StateCode) (c : Nat) (s : State) : (advance st' c s).lineOe = s.lineOe := rfl
@[simp] theorem advance_lineOut (st' : StateCode) (c : Nat) (s : State) : (advance st' c s).lineOut = s.lineOut := rfl
@[simp] theorem advance_linePull (st' : StateCode) (c : Nat) (s : State) : (advance st' c s).linePull = s.linePull := rfl
@[simp] theorem advance_rst (st' : StateCode) (c : Nat) (s : State) : (advance st' c s).rst = s.rst := rfl
@[simp] theorem advance_lineIn (st' : StateCode) (c : Nat) (s : State) : (advance st' c s).lineIn = s.lineIn := rfl
@[simp] theorem advance_lineAvail (st' : StateCode) (c : Nat) (s : State) : (advance st' c s).lineAvail = s.lineAvail := rfl
@[simp] theorem advance_rdata (st' : StateCode) (c : Nat) (s : State) : (advance st' c s).rdata = s.rdata := rfl
@[simp] theorem advance_agenda (st' : StateCode) (c : Nat) (s : State) : (advance st' c s).agenda = s.agenda := rfl
@[simp] theorem advance_draws (st' : StateCode) (c : Nat) (s : State) : (advance st' c s).draws = s.draws := rfl

/-! ## `setBitidx` -/

@[simp] theorem setBitidx_st (i : Nat) (s : State) : (setBitidx i s).st = s.st := rfl
@[simp] theorem setBitidx_done (i : Nat) (s : State) : (setBitidx i s).done = s.done := rfl
@[simp] theorem setBitidx_result (i : Nat) (s : State) : (setBitidx i s).result = s.result := rfl
@[simp] theorem setBitidx_frame (i : Nat) (s : State) : (setBitidx i s).frame = s.frame := rfl
@[simp] theorem setBitidx_cnt (i : Nat) (s : State) : (setBitidx i s).cnt = s.cnt := rfl
@[simp] theorem setBitidx_bitidx (i : Nat) (s : State) : (setBitidx i s).bitidx = BitVec.ofNat 6 i := rfl
@[simp] theorem setBitidx_lowdur (i : Nat) (s : State) : (setBitidx i s).lowdur = s.lowdur := rfl
@[simp] theorem setBitidx_asm (i : Nat) (s : State) : (setBitidx i s).asm = s.asm := rfl
@[simp] theorem setBitidx_lineOe (i : Nat) (s : State) : (setBitidx i s).lineOe = s.lineOe := rfl
@[simp] theorem setBitidx_lineOut (i : Nat) (s : State) : (setBitidx i s).lineOut = s.lineOut := rfl
@[simp] theorem setBitidx_linePull (i : Nat) (s : State) : (setBitidx i s).linePull = s.linePull := rfl
@[simp] theorem setBitidx_rst (i : Nat) (s : State) : (setBitidx i s).rst = s.rst := rfl
@[simp] theorem setBitidx_lineIn (i : Nat) (s : State) : (setBitidx i s).lineIn = s.lineIn := rfl
@[simp] theorem setBitidx_lineAvail (i : Nat) (s : State) : (setBitidx i s).lineAvail = s.lineAvail := rfl
@[simp] theorem setBitidx_rdata (i : Nat) (s : State) : (setBitidx i s).rdata = s.rdata := rfl
@[simp] theorem setBitidx_agenda (i : Nat) (s : State) : (setBitidx i s).agenda = s.agenda := rfl
@[simp] theorem setBitidx_draws (i : Nat) (s : State) : (setBitidx i s).draws = s.draws := rfl

/-! ## `setLowdur` -/

@[simp] theorem setLowdur_st (d : Nat) (s : State) : (setLowdur d s).st = s.st := rfl
@[simp] theorem setLowdur_done (d : Nat) (s : State) : (setLowdur d s).done = s.done := rfl
@[simp] theorem setLowdur_result (d : Nat) (s : State) : (setLowdur d s).result = s.result := rfl
@[simp] theorem setLowdur_frame (d : Nat) (s : State) : (setLowdur d s).frame = s.frame := rfl
@[simp] theorem setLowdur_cnt (d : Nat) (s : State) : (setLowdur d s).cnt = s.cnt := rfl
@[simp] theorem setLowdur_bitidx (d : Nat) (s : State) : (setLowdur d s).bitidx = s.bitidx := rfl
@[simp] theorem setLowdur_lowdur (d : Nat) (s : State) : (setLowdur d s).lowdur = BitVec.ofNat 8 d := rfl
@[simp] theorem setLowdur_asm (d : Nat) (s : State) : (setLowdur d s).asm = s.asm := rfl
@[simp] theorem setLowdur_lineOe (d : Nat) (s : State) : (setLowdur d s).lineOe = s.lineOe := rfl
@[simp] theorem setLowdur_lineOut (d : Nat) (s : State) : (setLowdur d s).lineOut = s.lineOut := rfl
@[simp] theorem setLowdur_linePull (d : Nat) (s : State) : (setLowdur d s).linePull = s.linePull := rfl
@[simp] theorem setLowdur_rst (d : Nat) (s : State) : (setLowdur d s).rst = s.rst := rfl
@[simp] theorem setLowdur_lineIn (d : Nat) (s : State) : (setLowdur d s).lineIn = s.lineIn := rfl
@[simp] theorem setLowdur_lineAvail (d : Nat) (s : State) : (setLowdur d s).lineAvail = s.lineAvail := rfl
@[simp] theorem setLowdur_rdata (d : Nat) (s : State) : (setLowdur d s).rdata = s.rdata := rfl
@[simp] theorem setLowdur_agenda (d : Nat) (s : State) : (setLowdur d s).agenda = s.agenda := rfl
@[simp] theorem setLowdur_draws (d : Nat) (s : State) : (setLowdur d s).draws = s.draws := rfl

/-! ## `setAsm` -/

@[simp] theorem setAsm_st (a : Frame) (s : State) : (setAsm a s).st = s.st := rfl
@[simp] theorem setAsm_done (a : Frame) (s : State) : (setAsm a s).done = s.done := rfl
@[simp] theorem setAsm_result (a : Frame) (s : State) : (setAsm a s).result = s.result := rfl
@[simp] theorem setAsm_frame (a : Frame) (s : State) : (setAsm a s).frame = s.frame := rfl
@[simp] theorem setAsm_cnt (a : Frame) (s : State) : (setAsm a s).cnt = s.cnt := rfl
@[simp] theorem setAsm_bitidx (a : Frame) (s : State) : (setAsm a s).bitidx = s.bitidx := rfl
@[simp] theorem setAsm_lowdur (a : Frame) (s : State) : (setAsm a s).lowdur = s.lowdur := rfl
@[simp] theorem setAsm_asm (a : Frame) (s : State) : (setAsm a s).asm = a := rfl
@[simp] theorem setAsm_lineOe (a : Frame) (s : State) : (setAsm a s).lineOe = s.lineOe := rfl
@[simp] theorem setAsm_lineOut (a : Frame) (s : State) : (setAsm a s).lineOut = s.lineOut := rfl
@[simp] theorem setAsm_linePull (a : Frame) (s : State) : (setAsm a s).linePull = s.linePull := rfl
@[simp] theorem setAsm_rst (a : Frame) (s : State) : (setAsm a s).rst = s.rst := rfl
@[simp] theorem setAsm_lineIn (a : Frame) (s : State) : (setAsm a s).lineIn = s.lineIn := rfl
@[simp] theorem setAsm_lineAvail (a : Frame) (s : State) : (setAsm a s).lineAvail = s.lineAvail := rfl
@[simp] theorem setAsm_rdata (a : Frame) (s : State) : (setAsm a s).rdata = s.rdata := rfl
@[simp] theorem setAsm_agenda (a : Frame) (s : State) : (setAsm a s).agenda = s.agenda := rfl
@[simp] theorem setAsm_draws (a : Frame) (s : State) : (setAsm a s).draws = s.draws := rfl

/-! ## `publish` -/

@[simp] theorem publish_st (s : State) : (publish s).st = s.st := rfl
@[simp] theorem publish_done (s : State) : (publish s).done = s.done := rfl
@[simp] theorem publish_result (s : State) : (publish s).result = s.result := rfl
@[simp] theorem publish_frame (s : State) : (publish s).frame = s.asm := rfl
@[simp] theorem publish_cnt (s : State) : (publish s).cnt = s.cnt := rfl
@[simp] theorem publish_bitidx (s : State) : (publish s).bitidx = s.bitidx := rfl
@[simp] theorem publish_lowdur (s : State) : (publish s).lowdur = s.lowdur := rfl
@[simp] theorem publish_asm (s : State) : (publish s).asm = s.asm := rfl
@[simp] theorem publish_lineOe (s : State) : (publish s).lineOe = s.lineOe := rfl
@[simp] theorem publish_lineOut (s : State) : (publish s).lineOut = s.lineOut := rfl
@[simp] theorem publish_linePull (s : State) : (publish s).linePull = s.linePull := rfl
@[simp] theorem publish_rst (s : State) : (publish s).rst = s.rst := rfl
@[simp] theorem publish_lineIn (s : State) : (publish s).lineIn = s.lineIn := rfl
@[simp] theorem publish_lineAvail (s : State) : (publish s).lineAvail = s.lineAvail := rfl
@[simp] theorem publish_rdata (s : State) : (publish s).rdata = s.rdata := rfl
@[simp] theorem publish_agenda (s : State) : (publish s).agenda = s.agenda := rfl
@[simp] theorem publish_draws (s : State) : (publish s).draws = s.draws := rfl

/-! ## `setRdata` -/

@[simp] theorem setRdata_st (v : Byte) (s : State) : (setRdata v s).st = s.st := rfl
@[simp] theorem setRdata_done (v : Byte) (s : State) : (setRdata v s).done = s.done := rfl
@[simp] theorem setRdata_result (v : Byte) (s : State) : (setRdata v s).result = s.result := rfl
@[simp] theorem setRdata_frame (v : Byte) (s : State) : (setRdata v s).frame = s.frame := rfl
@[simp] theorem setRdata_cnt (v : Byte) (s : State) : (setRdata v s).cnt = s.cnt := rfl
@[simp] theorem setRdata_bitidx (v : Byte) (s : State) : (setRdata v s).bitidx = s.bitidx := rfl
@[simp] theorem setRdata_lowdur (v : Byte) (s : State) : (setRdata v s).lowdur = s.lowdur := rfl
@[simp] theorem setRdata_asm (v : Byte) (s : State) : (setRdata v s).asm = s.asm := rfl
@[simp] theorem setRdata_lineOe (v : Byte) (s : State) : (setRdata v s).lineOe = s.lineOe := rfl
@[simp] theorem setRdata_lineOut (v : Byte) (s : State) : (setRdata v s).lineOut = s.lineOut := rfl
@[simp] theorem setRdata_linePull (v : Byte) (s : State) : (setRdata v s).linePull = s.linePull := rfl
@[simp] theorem setRdata_rst (v : Byte) (s : State) : (setRdata v s).rst = s.rst := rfl
@[simp] theorem setRdata_lineIn (v : Byte) (s : State) : (setRdata v s).lineIn = s.lineIn := rfl
@[simp] theorem setRdata_lineAvail (v : Byte) (s : State) : (setRdata v s).lineAvail = s.lineAvail := rfl
@[simp] theorem setRdata_rdata (v : Byte) (s : State) : (setRdata v s).rdata = v := rfl
@[simp] theorem setRdata_agenda (v : Byte) (s : State) : (setRdata v s).agenda = s.agenda := rfl
@[simp] theorem setRdata_draws (v : Byte) (s : State) : (setRdata v s).draws = s.draws := rfl

/-! ## `takeDraws` -/

@[simp] theorem takeDraws_st (a b : Level) (s : State) : (takeDraws a b s).st = s.st := rfl
@[simp] theorem takeDraws_done (a b : Level) (s : State) : (takeDraws a b s).done = s.done := rfl
@[simp] theorem takeDraws_result (a b : Level) (s : State) : (takeDraws a b s).result = s.result := rfl
@[simp] theorem takeDraws_frame (a b : Level) (s : State) : (takeDraws a b s).frame = s.frame := rfl
@[simp] theorem takeDraws_cnt (a b : Level) (s : State) : (takeDraws a b s).cnt = s.cnt := rfl
@[simp] theorem takeDraws_bitidx (a b : Level) (s : State) : (takeDraws a b s).bitidx = s.bitidx := rfl
@[simp] theorem takeDraws_lowdur (a b : Level) (s : State) : (takeDraws a b s).lowdur = s.lowdur := rfl
@[simp] theorem takeDraws_asm (a b : Level) (s : State) : (takeDraws a b s).asm = s.asm := rfl
@[simp] theorem takeDraws_lineOe (a b : Level) (s : State) : (takeDraws a b s).lineOe = s.lineOe := rfl
@[simp] theorem takeDraws_lineOut (a b : Level) (s : State) : (takeDraws a b s).lineOut = s.lineOut := rfl
@[simp] theorem takeDraws_linePull (a b : Level) (s : State) : (takeDraws a b s).linePull = s.linePull := rfl
@[simp] theorem takeDraws_rst (a b : Level) (s : State) : (takeDraws a b s).rst = s.rst := rfl
@[simp] theorem takeDraws_lineIn (a b : Level) (s : State) : (takeDraws a b s).lineIn = a := rfl
@[simp] theorem takeDraws_lineAvail (a b : Level) (s : State) : (takeDraws a b s).lineAvail = b := rfl
@[simp] theorem takeDraws_rdata (a b : Level) (s : State) : (takeDraws a b s).rdata = s.rdata := rfl
@[simp] theorem takeDraws_agenda (a b : Level) (s : State) : (takeDraws a b s).agenda = s.agenda := rfl
@[simp] theorem takeDraws_draws (a b : Level) (s : State) : (takeDraws a b s).draws = s.draws := rfl

/-! ## `acceptStart` -/

@[simp] theorem acceptStart_st (s : State) : (acceptStart s).st = stArm := rfl
@[simp] theorem acceptStart_done (s : State) : (acceptStart s).done = false := rfl
@[simp] theorem acceptStart_result (s : State) : (acceptStart s).result = 0 := rfl
@[simp] theorem acceptStart_frame (s : State) : (acceptStart s).frame = Frame.zero := rfl
@[simp] theorem acceptStart_cnt (s : State) : (acceptStart s).cnt = 0 := rfl
@[simp] theorem acceptStart_bitidx (s : State) : (acceptStart s).bitidx = 0 := rfl
@[simp] theorem acceptStart_lowdur (s : State) : (acceptStart s).lowdur = 0 := rfl
@[simp] theorem acceptStart_asm (s : State) : (acceptStart s).asm = Frame.zero := rfl
@[simp] theorem acceptStart_lineOe (s : State) : (acceptStart s).lineOe = s.lineOe := rfl
@[simp] theorem acceptStart_lineOut (s : State) : (acceptStart s).lineOut = s.lineOut := rfl
@[simp] theorem acceptStart_linePull (s : State) : (acceptStart s).linePull = s.linePull := rfl
@[simp] theorem acceptStart_rst (s : State) : (acceptStart s).rst = s.rst := rfl
@[simp] theorem acceptStart_lineIn (s : State) : (acceptStart s).lineIn = s.lineIn := rfl
@[simp] theorem acceptStart_lineAvail (s : State) : (acceptStart s).lineAvail = s.lineAvail := rfl
@[simp] theorem acceptStart_rdata (s : State) : (acceptStart s).rdata = s.rdata := rfl
@[simp] theorem acceptStart_agenda (s : State) : (acceptStart s).agenda = s.agenda := rfl
@[simp] theorem acceptStart_draws (s : State) : (acceptStart s).draws = s.draws := rfl

/-! ## `toReset` -/

@[simp] theorem toReset_st (s : State) : (toReset s).st = 0 := rfl
@[simp] theorem toReset_done (s : State) : (toReset s).done = false := rfl
@[simp] theorem toReset_result (s : State) : (toReset s).result = 0 := rfl
@[simp] theorem toReset_frame (s : State) : (toReset s).frame = Frame.zero := rfl
@[simp] theorem toReset_cnt (s : State) : (toReset s).cnt = 0 := rfl
@[simp] theorem toReset_bitidx (s : State) : (toReset s).bitidx = 0 := rfl
@[simp] theorem toReset_lowdur (s : State) : (toReset s).lowdur = 0 := rfl
@[simp] theorem toReset_asm (s : State) : (toReset s).asm = Frame.zero := rfl
@[simp] theorem toReset_lineOe (s : State) : (toReset s).lineOe = false := rfl
@[simp] theorem toReset_lineOut (s : State) : (toReset s).lineOut = true := rfl
@[simp] theorem toReset_linePull (s : State) : (toReset s).linePull = 1 := rfl
@[simp] theorem toReset_rst (s : State) : (toReset s).rst = s.rst := rfl
@[simp] theorem toReset_lineIn (s : State) : (toReset s).lineIn = s.lineIn := rfl
@[simp] theorem toReset_lineAvail (s : State) : (toReset s).lineAvail = s.lineAvail := rfl
@[simp] theorem toReset_rdata (s : State) : (toReset s).rdata = s.rdata := rfl
@[simp] theorem toReset_agenda (s : State) : (toReset s).agenda = s.agenda := rfl
@[simp] theorem toReset_draws (s : State) : (toReset s).draws = s.draws := rfl

/-! ## `setRst` -/

@[simp] theorem setRst_st (b : Bool) (s : State) : (setRst b s).st = s.st := rfl
@[simp] theorem setRst_done (b : Bool) (s : State) : (setRst b s).done = s.done := rfl
@[simp] theorem setRst_result (b : Bool) (s : State) : (setRst b s).result = s.result := rfl
@[simp] theorem setRst_frame (b : Bool) (s : State) : (setRst b s).frame = s.frame := rfl
@[simp] theorem setRst_cnt (b : Bool) (s : State) : (setRst b s).cnt = s.cnt := rfl
@[simp] theorem setRst_bitidx (b : Bool) (s : State) : (setRst b s).bitidx = s.bitidx := rfl
@[simp] theorem setRst_lowdur (b : Bool) (s : State) : (setRst b s).lowdur = s.lowdur := rfl
@[simp] theorem setRst_asm (b : Bool) (s : State) : (setRst b s).asm = s.asm := rfl
@[simp] theorem setRst_lineOe (b : Bool) (s : State) : (setRst b s).lineOe = s.lineOe := rfl
@[simp] theorem setRst_lineOut (b : Bool) (s : State) : (setRst b s).lineOut = s.lineOut := rfl
@[simp] theorem setRst_linePull (b : Bool) (s : State) : (setRst b s).linePull = s.linePull := rfl
@[simp] theorem setRst_rst (b : Bool) (s : State) : (setRst b s).rst = b := rfl
@[simp] theorem setRst_lineIn (b : Bool) (s : State) : (setRst b s).lineIn = s.lineIn := rfl
@[simp] theorem setRst_lineAvail (b : Bool) (s : State) : (setRst b s).lineAvail = s.lineAvail := rfl
@[simp] theorem setRst_rdata (b : Bool) (s : State) : (setRst b s).rdata = s.rdata := rfl
@[simp] theorem setRst_agenda (b : Bool) (s : State) : (setRst b s).agenda = s.agenda := rfl
@[simp] theorem setRst_draws (b : Bool) (s : State) : (setRst b s).draws = s.draws := rfl

/-! ## `schedule` -/

@[simp] theorem schedule_st (es : List Event) (s : State) : (schedule es s).st = s.st := rfl
@[simp] theorem schedule_done (es : List Event) (s : State) : (schedule es s).done = s.done := rfl
@[simp] theorem schedule_result (es : List Event) (s : State) : (schedule es s).result = s.result := rfl
@[simp] theorem schedule_frame (es : List Event) (s : State) : (schedule es s).frame = s.frame := rfl
@[simp] theorem schedule_cnt (es : List Event) (s : State) : (schedule es s).cnt = s.cnt := rfl
@[simp] theorem schedule_bitidx (es : List Event) (s : State) : (schedule es s).bitidx = s.bitidx := rfl
@[simp] theorem schedule_lowdur (es : List Event) (s : State) : (schedule es s).lowdur = s.lowdur := rfl
@[simp] theorem schedule_asm (es : List Event) (s : State) : (schedule es s).asm = s.asm := rfl
@[simp] theorem schedule_lineOe (es : List Event) (s : State) : (schedule es s).lineOe = s.lineOe := rfl
@[simp] theorem schedule_lineOut (es : List Event) (s : State) : (schedule es s).lineOut = s.lineOut := rfl
@[simp] theorem schedule_linePull (es : List Event) (s : State) : (schedule es s).linePull = s.linePull := rfl
@[simp] theorem schedule_rst (es : List Event) (s : State) : (schedule es s).rst = s.rst := rfl
@[simp] theorem schedule_lineIn (es : List Event) (s : State) : (schedule es s).lineIn = s.lineIn := rfl
@[simp] theorem schedule_lineAvail (es : List Event) (s : State) : (schedule es s).lineAvail = s.lineAvail := rfl
@[simp] theorem schedule_rdata (es : List Event) (s : State) : (schedule es s).rdata = s.rdata := rfl
@[simp] theorem schedule_agenda (es : List Event) (s : State) : (schedule es s).agenda = es ++ s.agenda := rfl
@[simp] theorem schedule_draws (es : List Event) (s : State) : (schedule es s).draws = s.draws := rfl

end Sys2Proof.Machine
end

