-- ==== Sys2Proof/Laws/Ops.lean ====
section
/-! SUPPORT. One lemma for each shared operation that says what it does, and the small lemmas of the
parameters and codes. Later proofs cite these and do not unfold the operations. -/

namespace Sys2Proof.Machine

/-! ## Parameters -/

@[simp] theorem tTimeout_value : Config.dpe.tTimeout = 200 := rfl
@[simp] theorem ackMin_value : Config.dpe.ackMin = 70 := rfl
@[simp] theorem ackMax_value : Config.dpe.ackMax = 90 := rfl
@[simp] theorem tIdle_value : Config.dpe.tIdle = 1000 := rfl
@[simp] theorem tStart_value : Config.dpe.tStart = 1100 := rfl
@[simp] theorem tRel_value : Config.dpe.tRel = 1 := rfl
@[simp] theorem nBits_value : Config.dpe.nBits = 40 := rfl

/-! ## Codes, as the numbers of 30_encoding.md R73 to R75 -/

@[simp] theorem stIdle_value : stIdle = 0 := rfl
@[simp] theorem stArm_value : stArm = 1 := rfl
@[simp] theorem stBusIdle_value : stBusIdle = 2 := rfl
@[simp] theorem stStartLow_value : stStartLow = 3 := rfl
@[simp] theorem stRelease_value : stRelease = 4 := rfl
@[simp] theorem stAckH1_value : stAckH1 = 5 := rfl
@[simp] theorem stAckL_value : stAckL = 6 := rfl
@[simp] theorem stAckH2_value : stAckH2 = 7 := rfl
@[simp] theorem stBitL_value : stBitL = 8 := rfl
@[simp] theorem stBitH_value : stBitH = 9 := rfl
@[simp] theorem stCheck_value : stCheck = 10 := rfl
@[simp] theorem codeOk_value : codeOk = 0 := rfl
@[simp] theorem codeTimeout_value : codeTimeout = 1 := rfl
@[simp] theorem codeChecksum_value : codeChecksum = 2 := rfl
@[simp] theorem codeAcquisition_value : codeAcquisition = 3 := rfl
@[simp] theorem codeInternal_value : codeInternal = 4 := rfl
@[simp] theorem pullUp_value : pullUp = 1 := rfl

theorem busy_iff (s : State) : busy s = true ↔ s.st ≠ 0 := decide_eq_true_iff

theorem measuring_iff (c : StateCode) : measuring c = true ↔ 5 ≤ c.toNat ∧ c.toNat ≤ 9 := decide_eq_true_iff

@[simp] theorem measuring_idle : measuring 0#4 = false := rfl
@[simp] theorem measuring_arm : measuring 1#4 = false := rfl
@[simp] theorem measuring_busIdle : measuring 2#4 = false := rfl
@[simp] theorem measuring_startLow : measuring 3#4 = false := rfl
@[simp] theorem measuring_release : measuring 4#4 = false := rfl
@[simp] theorem measuring_ackH1 : measuring 5#4 = true := rfl
@[simp] theorem measuring_ackL : measuring 6#4 = true := rfl
@[simp] theorem measuring_ackH2 : measuring 7#4 = true := rfl
@[simp] theorem measuring_bitL : measuring 8#4 = true := rfl
@[simp] theorem measuring_bitH : measuring 9#4 = true := rfl
@[simp] theorem measuring_check : measuring 10#4 = false := rfl
@[simp] theorem targetLevel_ackH1 : targetLevel 5#4 = true := rfl
@[simp] theorem targetLevel_ackL : targetLevel 6#4 = false := rfl
@[simp] theorem targetLevel_ackH2 : targetLevel 7#4 = true := rfl
@[simp] theorem targetLevel_bitL : targetLevel 8#4 = false := rfl
@[simp] theorem targetLevel_bitH : targetLevel 9#4 = true := rfl

/-! ## The Pulse Timer -/

theorem pt_level_changed {v s : Level} (c : Nat) (h : s ≠ v) : pt v c s = .finish c := by
  simp [pt, h]

theorem pt_timer_stops {c : Nat} (v : Level) (h : 200 < c + 1) : pt v c v = .finish (c + 1) := by
  simp [pt]; omega

theorem pt_counts {c : Nat} (v : Level) (h : c + 1 ≤ 200) : pt v c v = .cont (c + 1) := by
  simp [pt]; omega

/-- A tick of a measurement either counts one more sample at the target, with the count still at most 200, or
ends it: at the count by a level change, at 201 or more where the timer stops. -/
theorem measure_cases (v : Level) (f : Nat → State → State) (s : State) :
    (s.lineIn = v ∧ s.cnt.toNat + 1 ≤ 200 ∧ measure v f s = setCnt (s.cnt.toNat + 1) s) ∨
    (s.lineIn = v ∧ 200 ≤ s.cnt.toNat ∧ measure v f s = f (s.cnt.toNat + 1) s) ∨
    (s.lineIn ≠ v ∧ measure v f s = f s.cnt.toNat s) := by
  by_cases hv : s.lineIn = v
  · rcases Nat.lt_or_ge 200 (s.cnt.toNat + 1) with hc | hc
    · exact .inr (.inl ⟨hv, by omega, by simp [measure, hv, pt_timer_stops v hc]⟩)
    · exact .inl ⟨hv, hc, by simp [measure, hv, pt_counts v hc]⟩
  · exact .inr (.inr ⟨hv, by simp [measure, pt_level_changed _ hv]⟩)

theorem measure_counts {v : Level} (f : Nat → State → State) {s : State} (hv : s.lineIn = v)
    (hc : s.cnt.toNat + 1 ≤ 200) : measure v f s = setCnt (s.cnt.toNat + 1) s := by
  simp [measure, hv, pt_counts v hc]

theorem measure_stops {v : Level} (f : Nat → State → State) {s : State} (hv : s.lineIn = v)
    (hc : 200 < s.cnt.toNat + 1) : measure v f s = f (s.cnt.toNat + 1) s := by
  simp [measure, hv, pt_timer_stops v hc]

theorem measure_changes {v : Level} (f : Nat → State → State) {s : State} (hv : s.lineIn ≠ v) :
    measure v f s = f s.cnt.toNat s := by
  simp [measure, pt_level_changed _ hv]

/-- A count below 2^16 is stored whole. -/
theorem setCnt_toNat {c : Nat} (s : State) (h : c < 65536) : (setCnt c s).cnt.toNat = c := by
  simp [Nat.mod_eq_of_lt h]

theorem ofNat_cnt_succ (s : State) : BitVec.ofNat 16 (s.cnt.toNat + 1) = s.cnt + 1 := by
  apply BitVec.eq_of_toNat_eq; simp

theorem ofNat_bitidx_succ (s : State) : BitVec.ofNat 6 (s.bitidx.toNat + 1) = s.bitidx + 1 := by
  apply BitVec.eq_of_toNat_eq; simp

theorem setCnt_succ (s : State) : setCnt (s.cnt.toNat + 1) s = { s with cnt := s.cnt + 1 } := by
  rw [setCnt, ofNat_cnt_succ]

/-! ## Sleeps -/

theorem sleep_ends {n : Nat} (f : State → State) {s : State} (h : s.cnt.toNat + 1 = n) :
    sleep n f s = f s := by simp [sleep, h]

theorem sleep_counts {n : Nat} (f : State → State) {s : State} (h : s.cnt.toNat + 1 ≠ n) :
    sleep n f s = setCnt (s.cnt.toNat + 1) s := by simp [sleep, h]

/-! ## The tests on a duration -/

@[simp] theorem timedOut_iff (d : Nat) : timedOut d = true ↔ 200 ≤ d :=
  decide_eq_true_iff

@[simp] theorem inAckWindow_iff (d : Nat) : inAckWindow d = true ↔ 70 ≤ d ∧ d ≤ 90 :=
  decide_eq_true_iff

/-! ## Bits of a byte and slots of a frame -/

theorem setBit_same {j : Nat} (x : Byte) (b : Bool) (hj : j < 8) : (setBit x j b).getLsbD j = b := by
  cases b <;> simp [setBit, hj]

theorem setBit_other {j k : Nat} (x : Byte) (b : Bool) (hk : k < 8) (h : k ≠ j) :
    (setBit x j b).getLsbD k = x.getLsbD k := by
  rcases Nat.lt_or_gt_of_ne h with h1 | h1
  · cases b <;> simp [setBit, hk, h1]
  · have h2 : k - j ≠ 0 := by omega
    cases b <;> simp [setBit, hk, h2]

/-! ## The checksum -/

/-- The 16-bit sum never wraps (43_data_phase.md R155). -/
theorem sum16_toNat (f : Frame) :
    (sum16 f).toNat = f.b0.toNat + f.b1.toNat + f.b2.toNat + f.b3.toNat := by
  have := f.b0.isLt
  have := f.b1.isLt
  have := f.b2.isLt
  have := f.b3.isLt
  simp [sum16]
  omega

theorem checksumOk_iff (f : Frame) : checksumOk f = true ↔
    f.b4.toNat = (f.b0.toNat + f.b1.toNat + f.b2.toNat + f.b3.toNat) % 256 := by
  rw [checksumOk, decide_eq_true_iff, ← BitVec.toNat_inj]
  simp [sum16_toNat]

/-! ## The register space -/

theorem memRead_ofAddr (r : HostReg) (s : State) : memRead r.addr s = regValue r s := by
  cases r <;> rfl

/-- Reading a register does not depend on what the latest read returned. -/
@[simp] theorem regValue_setRdata (r : HostReg) (v : Byte) (s : State) :
    regValue r (setRdata v s) = regValue r s := by cases r <;> rfl

/-- An accepted START is answered, and one in a busy state is ignored. -/
theorem startOp_cases (s : State) :
    (s.st = stIdle ∧ startOp s = acceptStart s) ∨ (s.st ≠ stIdle ∧ startOp s = s) := by
  by_cases h : s.st = stIdle
  · exact .inl ⟨h, if_pos h⟩
  · exact .inr ⟨h, if_neg h⟩

/-- Reset twice is reset once. -/
@[simp] theorem toReset_toReset (s : State) : toReset (toReset s) = toReset s := rfl

end Sys2Proof.Machine
end

