-- ==== Sys2Proof/Laws/Run.lean ====
section
/-! SUPPORT. Runs: every event answers a next state, no event looks at the rest of the agenda, and a run over
a list of events is the events one after another. -/

namespace Sys2Proof.Machine

/-- No instruction stops (30_encoding.md R80). -/
theorem exec_next (i : Instr) (s : State) : ∃ t, exec i s = .next t := by
  cases i <;> exact ⟨_, rfl⟩

theorem hostStep_next (w : BusWord) (s : State) : ∃ t, hostStep w s = .next t := by
  unfold hostStep
  split
  · split
    · exact ⟨_, rfl⟩
    · exact exec_next _ _
  · exact exec_next _ _

theorem engineStep_next (a v : Level) (s : State) : ∃ t, engineStep a v s = .next t := by
  unfold engineStep
  split
  · exact ⟨_, rfl⟩
  · exact exec_next _ _

theorem perform_next (e : Event) (s : State) : ∃ t, perform e s = .next t := by
  cases e with
  | host w => exact hostStep_next w s
  | tick a v => exact engineStep_next a v s
  | rst b => exact ⟨_, rfl⟩

/-- Apply a function to the state an outcome answers. -/
def mapNext (f : State → State) : Host.Outcome State Fault Refusal → Host.Outcome State Fault Refusal
  | .next s => .next (f s)
  | .fault r => .fault r
  | .refused r => .refused r

theorem measure_schedule {v : Level} {f : Nat → State → State} (es : List Event) (s : State)
    (hf : ∀ d, f d (schedule es s) = schedule es (f d s)) :
    measure v f (schedule es s) = schedule es (measure v f s) := by
  unfold measure
  simp only [schedule_cnt, schedule_lineIn]
  split
  · rfl
  · exact hf _

theorem sleep_schedule {n : Nat} {f : State → State} (es : List Event) (s : State)
    (hf : f (schedule es s) = schedule es (f s)) :
    sleep n f (schedule es s) = schedule es (sleep n f s) := by
  by_cases h : s.cnt.toNat + 1 = n
  · rw [sleep_ends f h, sleep_ends f (s := schedule es s) h, hf]
  · rw [sleep_counts f h, sleep_counts f (s := schedule es s) h]; rfl

theorem startOp_schedule (es : List Event) (s : State) :
    startOp (schedule es s) = schedule es (startOp s) := by
  by_cases h : s.st = stIdle
  · rw [startOp, startOp, if_pos h, if_pos (by exact h)]; rfl
  · rw [startOp, startOp, if_neg h, if_neg (by exact h)]

theorem readOp_schedule (r : HostReg) (es : List Event) (s : State) :
    readOp r (schedule es s) = schedule es (readOp r s) := by
  cases r <;> rfl

/-- No instruction reads or writes the agenda. -/
theorem exec_schedule (i : Instr) (es : List Event) (s : State) :
    exec i (schedule es s) = mapNext (schedule es) (exec i s) := by
  cases i
  case start => exact congrArg Host.Outcome.next (startOp_schedule es s)
  case arm =>
    by_cases h : s.lineAvail = true <;> simp [exec, execArm, mapNext, h] <;> rfl
  case busIdle => exact congrArg Host.Outcome.next (sleep_schedule es s rfl)
  case startLow => exact congrArg Host.Outcome.next (sleep_schedule es s rfl)
  case release => exact congrArg Host.Outcome.next (sleep_schedule es s rfl)
  case ackH1 =>
    exact congrArg Host.Outcome.next (measure_schedule es s fun d => by unfold endAckH1; split <;> rfl)
  case ackL =>
    exact congrArg Host.Outcome.next (measure_schedule es s fun d => by unfold endAckL; split <;> rfl)
  case ackH2 =>
    exact congrArg Host.Outcome.next (measure_schedule es s fun d => by unfold endAckH2; split <;> rfl)
  case bitL =>
    exact congrArg Host.Outcome.next (measure_schedule es s fun d => by unfold endBitL; split <;> rfl)
  case bitH =>
    exact congrArg Host.Outcome.next (measure_schedule es s fun d => by unfold endBitH; split <;> rfl)
  case check =>
    by_cases h : checksumOk s.asm = true <;> simp [exec, execCheck, mapNext, h] <;> rfl
  all_goals rfl

/-- No event looks at the events after it. -/
theorem perform_schedule (e : Event) (es : List Event) (s : State) :
    perform e (schedule es s) = mapNext (schedule es) (perform e s) := by
  cases e with
  | host w =>
    by_cases hr : s.rst = true
    · by_cases hw : fieldWe w = true
      · simp [perform, hostStep, hr, hw, mapNext]; rfl
      · simp only [perform, hostStep, schedule_rst, hr, if_true, hw, Bool.false_eq_true, if_false]
        exact exec_schedule _ es (toReset s)
    · simpa [perform, hostStep, hr] using exec_schedule _ es s
  | tick a v =>
    by_cases hr : s.rst = true
    · simp [perform, engineStep, hr, mapNext]; rfl
    · simp only [perform, engineStep, schedule_rst, schedule_st, hr, Bool.false_eq_true, if_false]
      exact exec_schedule _ es (takeDraws a v s)
  | rst b =>
    by_cases h : (b || s.rst) = true
    · simp only [perform, rstStep, mapNext, if_pos h]
      rw [if_pos (by exact h)]; rfl
    · simp only [perform, rstStep, mapNext, if_neg h]
      rw [if_neg (by exact h)]; rfl

/-- The next event of a listed agenda is its head. -/
theorem step_schedule (e : Event) (es : List Event) (s : State) :
    step (schedule (e :: es) s) = perform e (schedule es s) := rfl

theorem runEvents_nil (s : State) : runEvents [] s = .next s := rfl

/-- One more step of a run. -/
theorem run_succ (M : Host.Core) (k : Nat) {s t : M.State} (h : M.step s = .next t) :
    M.run (k + 1) s = M.run k t := by
  show (match M.step s with
    | .next s' => M.run k s'
    | .fault r => .fault r
    | .refused r => .refused r) = M.run k t
  rw [h]

/-- A run is its first event and then the rest. -/
theorem runEvents_cons (e : Event) (es : List Event) (s : State) :
    runEvents (e :: es) s = thenRun (perform e s) (runEvents es) := by
  obtain ⟨t, ht⟩ := perform_next e s
  have h : Sys2Proof.core.step (schedule (e :: es) s) = .next (schedule es t) := by
    change step (schedule (e :: es) s) = _
    rw [step_schedule, perform_schedule, ht]; rfl
  rw [ht]
  exact run_succ Sys2Proof.core es.length h

theorem runEvents_cons_next {e : Event} {s t : State} (es : List Event) (h : perform e s = .next t) :
    runEvents (e :: es) s = runEvents es t := by
  rw [runEvents_cons, h]; rfl

/-- A run always answers a next state. -/
theorem runEvents_next (es : List Event) (s : State) : ∃ t, runEvents es s = .next t := by
  induction es generalizing s with
  | nil => exact ⟨s, rfl⟩
  | cons e es ih =>
    obtain ⟨t, ht⟩ := perform_next e s
    rw [runEvents_cons_next es ht]
    exact ih t

/-- Two runs, one after the other. -/
theorem runEvents_append {es fs : List Event} {s t : State} (h : runEvents es s = .next t) :
    runEvents (es ++ fs) s = runEvents fs t := by
  induction es generalizing s with
  | nil =>
    rw [runEvents_nil] at h
    cases h; rfl
  | cons e es ih =>
    obtain ⟨u, hu⟩ := perform_next e s
    rw [List.cons_append, runEvents_cons_next _ hu]
    rw [runEvents_cons_next _ hu] at h
    exact ih h

/-- One step performs some event: the head of the agenda, or a tick with free draws. -/
theorem step_performs (s : State) :
    (∃ e rest, s.agenda = e :: rest ∧ step s = perform e { s with agenda := rest }) ∨
    (s.agenda = [] ∧ ∃ a v, step s = engineStep a v { s with draws := s.draws + 1 }) := by
  unfold step takeEvent
  split
  · next e rest h => exact .inl ⟨e, rest, h, rfl⟩
  · next h => exact .inr ⟨h, _, _, rfl⟩

end Sys2Proof.Machine
end

