-- ==== Sys2Proof/Laws/Engine.lean ====
section
/-! SUPPORT. All one engine step can do, said once: one case for each way a micro-operation can end. Later
proofs about the engine split on these cases and do not unfold the micro-operations. -/

namespace Sys2Proof.Machine

/-- The ways the micro-operation of a state can end, with the draws already at the ports. -/
inductive EngineMove (s : State) : State → Prop
  /-- R121 -/
  | idle : s.st = 0 → EngineMove s s
  /-- R122 -/
  | armClaims : s.st = 1 → s.lineAvail = true → EngineMove s (advance 2 0 (drive true true 1 s))
  | armFails : s.st = 1 → s.lineAvail = false → EngineMove s (complete 3 s)
  /-- R123 -/
  | busIdleCounts : s.st = 2 → s.cnt.toNat + 1 ≠ 1000 → EngineMove s (setCnt (s.cnt.toNat + 1) s)
  | busIdleEnds : s.st = 2 → s.cnt.toNat + 1 = 1000 → EngineMove s (advance 3 0 (drive true false 1 s))
  /-- R124 -/
  | startLowCounts : s.st = 3 → s.cnt.toNat + 1 ≠ 1100 → EngineMove s (setCnt (s.cnt.toNat + 1) s)
  | startLowEnds : s.st = 3 → s.cnt.toNat + 1 = 1100 → EngineMove s (advance 4 0 (drive true true 1 s))
  /-- R125 -/
  | releaseCounts : s.st = 4 → s.cnt.toNat + 1 ≠ 1 → EngineMove s (setCnt (s.cnt.toNat + 1) s)
  | releaseEnds : s.st = 4 → s.cnt.toNat + 1 = 1 → EngineMove s (advance 5 0 (drive false true 1 s))
  /-- A measurement goes on, or its timer stops (R101); in every state a stopped timer is a TIMEOUT (R104). -/
  | measureCounts : measuring s.st = true → s.lineIn = targetLevel s.st → s.cnt.toNat + 1 ≤ 200 →
      EngineMove s (setCnt (s.cnt.toNat + 1) s)
  | timerStops : measuring s.st = true → s.lineIn = targetLevel s.st → 200 ≤ s.cnt.toNat →
      EngineMove s (complete 1 s)
  /-- R126 -/
  | ackH1Passes : s.st = 5 → s.lineIn = false → s.cnt.toNat < 200 → EngineMove s (advance 6 1 s)
  | ackH1Fails : s.st = 5 → s.lineIn = false → 200 ≤ s.cnt.toNat → EngineMove s (complete 1 s)
  /-- R127 -/
  | ackLPasses : s.st = 6 → s.lineIn = true → 70 ≤ s.cnt.toNat → s.cnt.toNat ≤ 90 →
      EngineMove s (advance 7 1 s)
  | ackLFails : s.st = 6 → s.lineIn = true → s.cnt.toNat < 70 ∨ 90 < s.cnt.toNat →
      EngineMove s (complete 1 s)
  /-- R128 -/
  | ackH2Passes : s.st = 7 → s.lineIn = false → 70 ≤ s.cnt.toNat → s.cnt.toNat ≤ 90 →
      EngineMove s (advance 8 1 (setBitidx 0 s))
  | ackH2Fails : s.st = 7 → s.lineIn = false → s.cnt.toNat < 70 ∨ 90 < s.cnt.toNat →
      EngineMove s (complete 1 s)
  /-- R150 -/
  | bitLPasses : s.st = 8 → s.lineIn = true → s.cnt.toNat < 200 →
      EngineMove s (advance 9 1 (setLowdur s.cnt.toNat s))
  | bitLFails : s.st = 8 → s.lineIn = true → 200 ≤ s.cnt.toNat → EngineMove s (complete 1 s)
  /-- R151 -/
  | bitHPasses : s.st = 9 → s.lineIn = false → s.cnt.toNat < 200 →
      EngineMove s (advance (if s.bitidx.toNat = 39 then 10 else 8) 1 (setBitidx (s.bitidx.toNat + 1)
        (setAsm (pack s.asm s.bitidx.toNat (bitDecide s.lowdur.toNat s.cnt.toNat)) s)))
  | bitHFails : s.st = 9 → s.lineIn = false → 200 ≤ s.cnt.toNat → EngineMove s (complete 1 s)
  /-- R154 -/
  | checkPublishes : s.st = 10 → checksumOk s.asm = true → EngineMove s (complete 0 (publish s))
  | checkFails : s.st = 10 → checksumOk s.asm = false → EngineMove s (complete 2 s)
  /-- R129 -/
  | reserved : 11 ≤ s.st.toNat → EngineMove s (complete 4 s)

theorem code_cases : ∀ c : StateCode, c = 0 ∨ c = 1 ∨ c = 2 ∨ c = 3 ∨ c = 4 ∨ c = 5 ∨ c = 6 ∨ c = 7
    ∨ c = 8 ∨ c = 9 ∨ c = 10 ∨ 11 ≤ c.toNat := by decide

theorem decode_reserved : ∀ c : StateCode, 11 ≤ c.toNat →
    decodeState c = .reserved11 ∨ decodeState c = .reserved1215 c := by decide

/-- A measurement of a state, whatever its rule at the end. -/
theorem measure_move {s : State} {f : Nat → State → State} (hm : measuring s.st = true)
    (hstop : f (s.cnt.toNat + 1) s = complete 1 s ∨ s.cnt.toNat + 1 ≤ 200)
    (hend : s.lineIn ≠ targetLevel s.st → EngineMove s (f s.cnt.toNat s)) :
    EngineMove s (measure (targetLevel s.st) f s) := by
  rcases measure_cases (targetLevel s.st) f s with ⟨h1, h2, h3⟩ | ⟨h1, h2, h3⟩ | ⟨h1, h3⟩
  · rw [h3]; exact .measureCounts hm h1 h2
  · rw [h3]
    rcases hstop with h | h
    · rw [h]; exact .timerStops hm h1 h2
    · omega
  · rw [h3]; exact hend h1

theorem ackH1_move {s : State} (hs : s.st = 5) : EngineMove s (measure true endAckH1 s) := by
  have ht : targetLevel s.st = true := by rw [hs]; rfl
  rw [← ht]
  refine measure_move (by rw [hs]; rfl) ?_ fun hl => ?_
  · by_cases hc : s.cnt.toNat + 1 ≤ 200
    · exact .inr hc
    · exact .inl (if_pos ((timedOut_iff _).2 (by omega)))
  · replace hl : s.lineIn = false := by simpa [ht] using hl
    by_cases hc : s.cnt.toNat < 200
    · rw [endAckH1, if_neg (by rw [timedOut_iff]; omega)]; exact .ackH1Passes hs hl hc
    · rw [endAckH1, if_pos ((timedOut_iff _).2 (by omega))]; exact .ackH1Fails hs hl (by omega)

theorem ackL_move {s : State} (hs : s.st = 6) : EngineMove s (measure false endAckL s) := by
  have ht : targetLevel s.st = false := by rw [hs]; rfl
  rw [← ht]
  refine measure_move (by rw [hs]; rfl) ?_ fun hl => ?_
  · by_cases hc : s.cnt.toNat + 1 ≤ 200
    · exact .inr hc
    · exact .inl (if_neg (by rw [inAckWindow_iff]; omega))
  · replace hl : s.lineIn = true := by simpa [ht] using hl
    by_cases hc : 70 ≤ s.cnt.toNat ∧ s.cnt.toNat ≤ 90
    · rw [endAckL, if_pos ((inAckWindow_iff _).2 hc)]; exact .ackLPasses hs hl hc.1 hc.2
    · rw [endAckL, if_neg (by rw [inAckWindow_iff]; omega)]; exact .ackLFails hs hl (by omega)

theorem ackH2_move {s : State} (hs : s.st = 7) : EngineMove s (measure true endAckH2 s) := by
  have ht : targetLevel s.st = true := by rw [hs]; rfl
  rw [← ht]
  refine measure_move (by rw [hs]; rfl) ?_ fun hl => ?_
  · by_cases hc : s.cnt.toNat + 1 ≤ 200
    · exact .inr hc
    · exact .inl (if_neg (by rw [inAckWindow_iff]; omega))
  · replace hl : s.lineIn = false := by simpa [ht] using hl
    by_cases hc : 70 ≤ s.cnt.toNat ∧ s.cnt.toNat ≤ 90
    · rw [endAckH2, if_pos ((inAckWindow_iff _).2 hc)]; exact .ackH2Passes hs hl hc.1 hc.2
    · rw [endAckH2, if_neg (by rw [inAckWindow_iff]; omega)]; exact .ackH2Fails hs hl (by omega)

theorem bitL_move {s : State} (hs : s.st = 8) : EngineMove s (measure false endBitL s) := by
  have ht : targetLevel s.st = false := by rw [hs]; rfl
  rw [← ht]
  refine measure_move (by rw [hs]; rfl) ?_ fun hl => ?_
  · by_cases hc : s.cnt.toNat + 1 ≤ 200
    · exact .inr hc
    · exact .inl (if_pos ((timedOut_iff _).2 (by omega)))
  · replace hl : s.lineIn = true := by simpa [ht] using hl
    by_cases hc : s.cnt.toNat < 200
    · rw [endBitL, if_neg (by rw [timedOut_iff]; omega)]; exact .bitLPasses hs hl hc
    · rw [endBitL, if_pos ((timedOut_iff _).2 (by omega))]; exact .bitLFails hs hl (by omega)

theorem bitH_move {s : State} (hs : s.st = 9) : EngineMove s (measure true endBitH s) := by
  have ht : targetLevel s.st = true := by rw [hs]; rfl
  rw [← ht]
  refine measure_move (by rw [hs]; rfl) ?_ fun hl => ?_
  · by_cases hc : s.cnt.toNat + 1 ≤ 200
    · exact .inr hc
    · exact .inl (if_pos ((timedOut_iff _).2 (by omega)))
  · replace hl : s.lineIn = false := by simpa [ht] using hl
    by_cases hc : s.cnt.toNat < 200
    · rw [endBitH, if_neg (by rw [timedOut_iff]; omega)]; exact .bitHPasses hs hl hc
    · rw [endBitH, if_pos ((timedOut_iff _).2 (by omega))]; exact .bitHFails hs hl (by omega)

theorem busIdle_move {s : State} {f : State → State} (hs : s.st = 2)
    (hf : f s = advance 3 0 (drive true false 1 s)) : EngineMove s (sleep 1000 f s) := by
  by_cases hc : s.cnt.toNat + 1 = 1000
  · rw [sleep_ends _ hc, hf]; exact .busIdleEnds hs hc
  · rw [sleep_counts _ hc]; exact .busIdleCounts hs hc

theorem startLow_move {s : State} {f : State → State} (hs : s.st = 3)
    (hf : f s = advance 4 0 (drive true true 1 s)) : EngineMove s (sleep 1100 f s) := by
  by_cases hc : s.cnt.toNat + 1 = 1100
  · rw [sleep_ends _ hc, hf]; exact .startLowEnds hs hc
  · rw [sleep_counts _ hc]; exact .startLowCounts hs hc

theorem release_move {s : State} {f : State → State} (hs : s.st = 4)
    (hf : f s = advance 5 0 (drive false true 1 s)) : EngineMove s (sleep 1 f s) := by
  by_cases hc : s.cnt.toNat + 1 = 1
  · rw [sleep_ends _ hc, hf]; exact .releaseEnds hs hc
  · rw [sleep_counts _ hc]; exact .releaseCounts hs hc

/-- The micro-operation of the current state answers one of the moves. -/
theorem exec_decodeState (s : State) : ∃ t, exec (decodeState s.st) s = .next t ∧ EngineMove s t := by
  rcases code_cases s.st with hs | hs | hs | hs | hs | hs | hs | hs | hs | hs | hs | hs
  · exact ⟨s, by rw [hs]; rfl, .idle hs⟩
  · by_cases ha : s.lineAvail = true
    · exact ⟨_, by rw [hs]; exact congrArg Host.Outcome.next (if_pos ha), .armClaims hs ha⟩
    · exact ⟨_, by rw [hs]; exact congrArg Host.Outcome.next (if_neg ha), .armFails hs (by simpa using ha)⟩
  · exact ⟨_, by rw [hs]; rfl, busIdle_move hs rfl⟩
  · exact ⟨_, by rw [hs]; rfl, startLow_move hs rfl⟩
  · exact ⟨_, by rw [hs]; rfl, release_move hs rfl⟩
  · exact ⟨_, by rw [hs]; rfl, ackH1_move hs⟩
  · exact ⟨_, by rw [hs]; rfl, ackL_move hs⟩
  · exact ⟨_, by rw [hs]; rfl, ackH2_move hs⟩
  · exact ⟨_, by rw [hs]; rfl, bitL_move hs⟩
  · exact ⟨_, by rw [hs]; rfl, bitH_move hs⟩
  · by_cases hc : checksumOk s.asm = true
    · exact ⟨_, by rw [hs]; exact congrArg Host.Outcome.next (if_pos hc), .checkPublishes hs hc⟩
    · exact ⟨_, by rw [hs]; exact congrArg Host.Outcome.next (if_neg hc),
        .checkFails hs (by simpa using hc)⟩
  · exact ⟨complete 4 s, by rcases decode_reserved _ hs with h | h <;> rw [h] <;> rfl, .reserved hs⟩

theorem engineStep_eq {a v : Level} {s : State} (hr : s.rst = false) :
    engineStep a v s = exec (decodeState s.st) (takeDraws a v s) := by
  simp only [engineStep, hr, Bool.false_eq_true, if_false]

/-- All an engine step can do while reset is released. -/
theorem engineStep_cases {s t : State} {a v : Level} (hr : s.rst = false)
    (h : engineStep a v s = .next t) : EngineMove (takeDraws a v s) t := by
  rw [engineStep_eq hr] at h
  obtain ⟨u, hu, hm⟩ := exec_decodeState (takeDraws a v s)
  rw [takeDraws_st, h] at hu
  cases hu
  exact hm

/-- While reset is asserted an engine step holds the reset values. -/
theorem engineStep_reset {s t : State} {a v : Level} (hr : s.rst = true)
    (h : engineStep a v s = .next t) : t = toReset (takeDraws a v s) := by
  simp only [engineStep, hr, if_true] at h
  cases h
  rfl

/-- A change of the reset input. -/
theorem rstStep_cases {s t : State} {b : Bool} (h : rstStep b s = .next t) :
    (b = false ∧ s.rst = false ∧ t = setRst false s) ∨
    ((b = true ∨ s.rst = true) ∧ t = toReset (setRst b s)) := by
  unfold rstStep at h
  by_cases hb : (b || s.rst) = true
  · rw [if_pos hb] at h
    cases h
    exact .inr ⟨by simpa using hb, rfl⟩
  · rw [if_neg hb] at h
    cases h
    simp only [Bool.or_eq_true, not_or, Bool.not_eq_true] at hb
    exact .inl ⟨hb.1, hb.2, by rw [hb.1]⟩

end Sys2Proof.Machine
end

