-- ==== Sys2Proof/Laws/Host.lean ====
section
/-! SUPPORT. Host steps: a write word is `MemWrite`, a read word is `MemRead`, and what one host step can do. -/

namespace Sys2Proof.Machine

theorem ofAddr_eq_ctrl : ∀ a : BitVec 3, HostReg.ofAddr a = .ctrl ↔ a = 0 := by decide

theorem fieldWdata_bit0 (w : BusWord) : (fieldWdata w).getLsbD 0 = w.getLsbD 0 := by simp [fieldWdata]

/-- A write word is `MemWrite(addr, 1, wdata)` (20_memory.md R50). -/
theorem exec_write {w : BusWord} (s : State) (hw : fieldWe w = true) :
    exec (decodeHost w) s = .next (memWrite (fieldAddr w) (fieldWdata w) s) := by
  simp only [decodeHost, hw, if_true, memWrite]
  cases HostReg.ofAddr (fieldAddr w) <;> try rfl
  by_cases hv : (fieldWdata w).getLsbD 0 = true
  · simp only [decodeWrite, hv, if_true]; rfl
  · simp only [decodeWrite, hv]; rfl

/-- A read word is `MemRead(addr, 1)` (20_memory.md R50). -/
theorem exec_read {w : BusWord} (s : State) (hw : fieldWe w = false) :
    exec (decodeHost w) s = .next (setRdata (memRead (fieldAddr w) s) s) := by
  simp only [decodeHost, hw, Bool.false_eq_true, if_false, memRead]
  cases HostReg.ofAddr (fieldAddr w) <;> rfl

/-- A write does nothing, or it is an accepted START. -/
theorem memWrite_cases (a : BitVec 3) (v : Byte) (s : State) :
    memWrite a v s = s ∨
    (HostReg.ofAddr a = .ctrl ∧ v.getLsbD 0 = true ∧ s.st = 0 ∧ memWrite a v s = acceptStart s) := by
  unfold memWrite
  cases HostReg.ofAddr a <;> try exact .inl rfl
  by_cases hv : v.getLsbD 0 = true
  · rcases startOp_cases s with ⟨h1, h2⟩ | ⟨_, h2⟩
    · exact .inr ⟨rfl, hv, h1, by simp only [hv, if_true]; exact h2⟩
    · exact .inl (by simp only [hv, if_true]; exact h2)
  · exact .inl (by simp only [hv]; rfl)

/-- All a host step can do while reset is released: nothing, return a value, or start a transaction. -/
theorem hostStep_cases {s t : State} {w : BusWord} (hr : s.rst = false) (h : hostStep w s = .next t) :
    t = s ∨ (∃ v, t = setRdata v s) ∨
    (s.st = 0 ∧ t = acceptStart s ∧ ∃ v, decodeHost w = .start v) := by
  simp only [hostStep, hr, Bool.false_eq_true, if_false] at h
  by_cases hw : fieldWe w = true
  · rw [exec_write s hw] at h
    cases h
    rcases memWrite_cases (fieldAddr w) (fieldWdata w) s with h1 | ⟨h1, h2, h3, h4⟩
    · exact .inl h1
    · refine .inr (.inr ⟨h3, h4, fieldWdata w, ?_⟩)
      simp only [decodeHost, hw, if_true, h1, decodeWrite, h2]
  · rw [exec_read s (by simpa using hw)] at h
    cases h
    exact .inr (.inl ⟨_, rfl⟩)

/-- All a host step can do while reset is asserted: the state elements are at their reset values, and a read
returns a value. -/
theorem hostStep_reset {s t : State} {w : BusWord} (hr : s.rst = true) (h : hostStep w s = .next t) :
    (fieldWe w = true ∧ t = toReset s) ∨
    (fieldWe w = false ∧ t = setRdata (memRead (fieldAddr w) (toReset s)) (toReset s)) := by
  simp only [hostStep, hr, if_true] at h
  by_cases hw : fieldWe w = true
  · rw [if_pos hw] at h
    cases h
    exact .inl ⟨hw, rfl⟩
  · rw [if_neg hw, exec_read _ (by simpa using hw)] at h
    cases h
    exact .inr ⟨by simpa using hw, rfl⟩

end Sys2Proof.Machine
end

