-- ==== Sys2Proof/Laws/PerInstr.lean ====
section
/-! SUPPORT. The family TableRow: the bits of every well-formed instruction lie in that instruction's row of
spec/opcode_table.json. One lemma per constructor. -/

namespace Sys2Proof.Laws

/-- The mask of the rows that fix `we` and `addr`. -/
theorem mask_F00 (n : Nat) (h : n < 4096) : n &&& 0xF00 = n / 256 * 256 := by
  have key : ∀ m : Fin 16, ∀ k : Fin 256, (m.val * 256 + k.val) &&& 0xF00 = m.val * 256 := by decide +kernel
  have := key ⟨n / 256, by omega⟩ ⟨n % 256, by omega⟩
  rw [show n / 256 * 256 + n % 256 = n from by omega] at this
  exact this

/-- The mask of the rows that fix `wdata[0]` as well. -/
theorem mask_F01 (n : Nat) (h : n < 4096) : n &&& 0xF01 = n / 256 * 256 + n % 2 := by
  have key : ∀ m : Fin 16, ∀ k : Fin 256,
      (m.val * 256 + k.val) &&& 0xF01 = m.val * 256 + k.val % 2 := by decide +kernel
  have := key ⟨n / 256, by omega⟩ ⟨n % 256, by omega⟩
  rw [show n / 256 * 256 + n % 256 = n from by omega] at this
  simp only at this
  omega

/-- A bus word under the two masks. -/
theorem busWord_mask_F00 (we : Bool) (r : HostReg) (v : Byte) :
    (busWord we r v).toNat &&& 0xF00 = we.toNat * 2048 + r.addr.toNat * 256 := by
  have h1 := v.isLt
  rw [mask_F00 _ (busWord we r v).isLt, busWord_toNat]
  omega

theorem busWord_mask_F01 (we : Bool) (r : HostReg) (v : Byte) :
    (busWord we r v).toNat &&& 0xF01 = we.toNat * 2048 + r.addr.toNat * 256 + v.toNat % 2 := by
  have h1 := v.isLt
  rw [mask_F01 _ (busWord we r v).isLt, busWord_toNat]
  omega

/-- Bit 0 of a byte as a number. -/
theorem bit0_toNat (v : Byte) : v.toNat % 2 = (v.getLsbD 0).toNat := by
  rw [BitVec.getLsbD, Nat.testBit_zero]
  rcases Nat.mod_two_eq_zero_or_one v.toNat with h | h <;> simp [h]

/-- What a row that fixes `we` and `addr` admits. -/
theorem admits_host {m : String} {p : Nat} (we : Bool) (r : HostReg) (v : Byte)
    (h : we.toNat * 2048 + r.addr.toNat * 256 = p) :
    Row.admits ⟨m, .host, p, 0xF00⟩ (.host (busWord we r v)) = true := by
  simp [Row.admits, busWord_mask_F00, h]

/-- What a row that fixes `wdata[0]` as well admits. -/
theorem admits_ctrl {m : String} {p : Nat} (v : Byte)
    (h : 2048 + (v.getLsbD 0).toNat = p) :
    Row.admits ⟨m, .host, p, 0xF01⟩ (.host (busWord true .ctrl v)) = true := by
  have := busWord_mask_F01 true .ctrl v
  rw [bit0_toNat] at this
  simp only [Row.admits, this, decide_true, Bool.true_and, decide_eq_true_eq]
  exact h

namespace TableRow

/-- A well-formed instruction's bits are admitted by its own row of the table. -/
def Statement (i : Instr) : Prop := i.wf = true → (rowOf i).admits (encode i) = true

theorem start (v : Byte) : Statement (.start v) := fun h =>
  admits_ctrl v (by rw [show v.getLsbD 0 = true from h]; rfl)
theorem wrCtrlNop (v : Byte) : Statement (.wrCtrlNop v) := fun h =>
  admits_ctrl v (by rw [show v.getLsbD 0 = false from by simpa [Instr.wf] using h]; rfl)
theorem wrStatus (v : Byte) : Statement (.wrStatus v) := fun _ => admits_host true .status v rfl
theorem wrFrame0 (v : Byte) : Statement (.wrFrame0 v) := fun _ => admits_host true .frame0 v rfl
theorem wrFrame1 (v : Byte) : Statement (.wrFrame1 v) := fun _ => admits_host true .frame1 v rfl
theorem wrFrame2 (v : Byte) : Statement (.wrFrame2 v) := fun _ => admits_host true .frame2 v rfl
theorem wrFrame3 (v : Byte) : Statement (.wrFrame3 v) := fun _ => admits_host true .frame3 v rfl
theorem wrFrame4 (v : Byte) : Statement (.wrFrame4 v) := fun _ => admits_host true .frame4 v rfl
theorem wrState (v : Byte) : Statement (.wrState v) := fun _ => admits_host true .state v rfl
theorem rdCtrl (v : Byte) : Statement (.rdCtrl v) := fun _ => admits_host false .ctrl v rfl
theorem rdStatus (v : Byte) : Statement (.rdStatus v) := fun _ => admits_host false .status v rfl
theorem rdFrame0 (v : Byte) : Statement (.rdFrame0 v) := fun _ => admits_host false .frame0 v rfl
theorem rdFrame1 (v : Byte) : Statement (.rdFrame1 v) := fun _ => admits_host false .frame1 v rfl
theorem rdFrame2 (v : Byte) : Statement (.rdFrame2 v) := fun _ => admits_host false .frame2 v rfl
theorem rdFrame3 (v : Byte) : Statement (.rdFrame3 v) := fun _ => admits_host false .frame3 v rfl
theorem rdFrame4 (v : Byte) : Statement (.rdFrame4 v) := fun _ => admits_host false .frame4 v rfl
theorem rdState (v : Byte) : Statement (.rdState v) := fun _ => admits_host false .state v rfl
theorem idle : Statement .idle := fun _ => rfl
theorem arm : Statement .arm := fun _ => rfl
theorem busIdle : Statement .busIdle := fun _ => rfl
theorem startLow : Statement .startLow := fun _ => rfl
theorem release : Statement .release := fun _ => rfl
theorem ackH1 : Statement .ackH1 := fun _ => rfl
theorem ackL : Statement .ackL := fun _ => rfl
theorem ackH2 : Statement .ackH2 := fun _ => rfl
theorem bitL : Statement .bitL := fun _ => rfl
theorem bitH : Statement .bitH := fun _ => rfl
theorem check : Statement .check := fun _ => rfl
theorem reserved11 : Statement .reserved11 := fun _ => rfl
theorem reserved1215 (c : StateCode) : Statement (.reserved1215 c) := by
  have key : ∀ c : StateCode, Statement (.reserved1215 c) := by unfold Statement; decide
  exact key c

end TableRow

end Sys2Proof.Laws
end

