-- ==== Sys2Proof/Laws/Step.lean ====
section
/-! SUPPORT. One step is one event, and runs in the states that only count: a measurement whose line stays at
its target level, and IDLE. -/

namespace Sys2Proof.Machine

/-- One step is a host step, a change of `rst`, or an engine step (the agenda's tick, or one with free
draws), at the state with that event taken. -/
theorem step_cases {s t : State} (h : step s = .next t) :
    (∃ w rest, s.agenda = .host w :: rest ∧ hostStep w { s with agenda := rest } = .next t) ∨
    (∃ b rest, s.agenda = .rst b :: rest ∧ rstStep b { s with agenda := rest } = .next t) ∨
    (∃ a v es n, (s.agenda = [] ∨ ∃ a v rest, s.agenda = .tick a v :: rest) ∧
      engineStep a v { s with agenda := es, draws := n } = .next t) := by
  rcases step_performs s with ⟨e, rest, h1, h2⟩ | ⟨h1, a, v, h2⟩
  · rw [h2] at h
    cases e with
    | host w => exact .inl ⟨w, rest, h1, h⟩
    | rst b => exact .inr (.inl ⟨b, rest, h1, h⟩)
    | tick a v => exact .inr (.inr ⟨a, v, rest, s.draws, .inr ⟨a, v, rest, h1⟩, h⟩)
  · rw [h2] at h
    exact .inr (.inr ⟨a, v, s.agenda, s.draws + 1, .inl h1, h⟩)

theorem ticks_cons (d : Level × Level) (ds : List (Level × Level)) :
    ticks (d :: ds) = .tick d.1 d.2 :: ticks ds := rfl

/-- A tick in IDLE only records the draws (42_transaction_fsm.md R121). -/
theorem perform_tick_idle {s : State} (a v : Level) (hr : s.rst = false) (hs : s.st = 0) :
    perform (.tick a v) s = .next (takeDraws a v s) := by
  refine (engineStep_eq hr).trans ?_
  rw [hs]; rfl

/-- Ticks in IDLE only record the draws. -/
theorem run_idle {s : State} (draws : List (Level × Level)) (hr : s.rst = false) (hs : s.st = 0) :
    ∃ t, runEvents (ticks draws) s = .next t ∧
      t = { s with lineIn := t.lineIn, lineAvail := t.lineAvail } := by
  induction draws generalizing s with
  | nil => exact ⟨s, rfl, rfl⟩
  | cons d ds ih =>
    obtain ⟨t, h1, h2⟩ := ih (s := takeDraws d.1 d.2 s) hr hs
    exact ⟨t, by rw [ticks_cons, runEvents_cons_next _ (perform_tick_idle _ _ hr hs), h1], h2⟩

/-- A tick of a measurement with the line at its target level (41_pulse_timer.md R101, R104). -/
theorem perform_tick_target {s : State} (v : Level) (hr : s.rst = false) (hm : measuring s.st = true) :
    perform (.tick (targetLevel s.st) v) s = .next
      (if s.cnt.toNat + 1 ≤ 200 then setCnt (s.cnt.toNat + 1) (takeDraws (targetLevel s.st) v s)
        else complete 1 (takeDraws (targetLevel s.st) v s)) := by
  obtain ⟨t, ht⟩ := engineStep_next (targetLevel s.st) v s
  show engineStep (targetLevel s.st) v s = _
  refine ht.trans (congrArg Host.Outcome.next ?_)
  cases engineStep_cases hr ht with
  | measureCounts h1 h2 h3 => exact (if_pos (by simpa using h3)).symm
  | timerStops h1 h2 h3 => exact (if_neg (by simp at h3; omega)).symm
  | reserved h1 =>
    have := (measuring_iff _).1 hm
    simp at h1
    omega
  | _ h1 =>
    simp only [takeDraws_st] at h1
    simp_all

/-- A measurement goes on while the line stays at its target level and the count stays at most 200. -/
theorem run_target {s : State} (n : Nat) (v : Level) (hr : s.rst = false) (hm : measuring s.st = true)
    (hc : s.cnt.toNat + n ≤ 200) :
    ∃ t, runEvents (List.replicate n (.tick (targetLevel s.st) v)) s = .next t ∧
      t = { s with cnt := BitVec.ofNat 16 (s.cnt.toNat + n), lineIn := t.lineIn,
                   lineAvail := t.lineAvail } := by
  induction n generalizing s with
  | zero => exact ⟨s, rfl, by simp⟩
  | succ n ih =>
    have e := setCnt_toNat (c := s.cnt.toNat + 1) (takeDraws (targetLevel s.st) v s) (by omega)
    obtain ⟨t, h1, h2⟩ :=
      ih (s := setCnt (s.cnt.toNat + 1) (takeDraws (targetLevel s.st) v s)) hr hm (by omega)
    rw [e] at h2
    refine ⟨t, ?_, by rw [h2, Nat.add_right_comm, Nat.add_assoc]; rfl⟩
    rw [List.replicate_succ, runEvents_cons_next _ (perform_tick_target v hr hm), if_pos (by omega)]
    exact h1

end Sys2Proof.Machine
end

