-- ==== Sys2Proof/Tests/Slice0.lean ====
section
/-! SUPPORT. The model's own tests. Expected values are those of spec/95_test_vectors.md and of the rules named;
each test runs one step at most. The witnesses at the end show, for each statement with hypotheses, a state and
operands that meet them. -/

namespace Sys2Proof.Tests

open Sys2Proof.Machine Sys2Proof.Safety

/-! ## Helpers -/

/-- The state an outcome answers; the state before where it stops. -/
def after (o : Host.Outcome State Fault Refusal) (s : State) : State :=
  match o with
  | .next t => t
  | .fault _ => s
  | .refused _ => s

/-- One instruction from a state. -/
def run1 (i : Instr) (s : State) : State := after (exec i s) s

/-- A state in state `st` at count `cnt` with the line at `level`. -/
def during (st : StateCode) (cnt : BitVec 16) (level : Level) : State :=
  { State.reset with st := st, cnt := cnt, lineIn := level }

/-- The end state of program P1 (95_test_vectors.md section 3). -/
def afterP1 : State :=
  { State.reset with
    done := true, frame := ⟨0x02, 0x8C, 0x01, 0x05, 0x94⟩, asm := ⟨0x02, 0x8C, 0x01, 0x05, 0x94⟩,
    bitidx := 40, lowdur := 54, cnt := 1 }

/-- In CHECK with an assembled frame. -/
def checking (f : Frame) : State := { during 10 1 false with bitidx := 40, asm := f }

/-! ## Well-formedness: the ill-formed terms are refused -/

theorem test_wf_start : Instr.wf (.start 0x00) = false ∧ Instr.wf (.start 0xFE) = false ∧
    Instr.wf (.start 0x01) = true := by decide

theorem test_wf_wrCtrlNop : Instr.wf (.wrCtrlNop 0x01) = false ∧ Instr.wf (.wrCtrlNop 0xFF) = false ∧
    Instr.wf (.wrCtrlNop 0xFE) = true := by decide

theorem test_wf_reserved : Instr.wf (.reserved1215 11) = false ∧ Instr.wf (.reserved1215 0) = false ∧
    Instr.wf (.reserved1215 12) = true ∧ Instr.wf (.reserved1215 15) = true := by decide

/-- 00_scope.md R8: breaking any one constraint is refused. -/
theorem test_config_refused :
    Config.Params.wf { Config.dpeParams with tRel := 0 } = false ∧
    Config.Params.wf { Config.dpeParams with tIdle := 0 } = false ∧
    Config.Params.wf { Config.dpeParams with tStart := 0 } = false ∧
    Config.Params.wf { Config.dpeParams with tIdle := 65536 } = false ∧
    Config.Params.wf { Config.dpeParams with tStart := 65536 } = false ∧
    Config.Params.wf { Config.dpeParams with tRel := 65536 } = false ∧
    Config.Params.wf { Config.dpeParams with cntW := 7 } = false ∧
    Config.Params.wf { Config.dpeParams with tTimeout := 255 } = false ∧
    Config.Params.wf { Config.dpeParams with ackMin := 91 } = false ∧
    Config.Params.wf { Config.dpeParams with ackMax := 200 } = false ∧
    Config.Params.wf { Config.dpeParams with nBytes := 4 } = false ∧
    Config.Params.wf { Config.dpeParams with bitidxW := 5 } = false ∧
    (Config.accept { Config.dpeParams with ackMax := 200 }).isNone = true ∧
    (Config.accept Config.dpeParams).isSome = true := by decide

/-! ## Decoding: one word for every constructor, written out from 30_encoding.md R70 to R73 -/

theorem test_decode_writes :
    decodeTableWord 16 0b100000000001 = some (.start 0b00000001) ∧
    decodeTableWord 16 0b100011111111 = some (.start 0b11111111) ∧
    decodeTableWord 16 0b100011111110 = some (.wrCtrlNop 0b11111110) ∧
    decodeTableWord 16 0b100101010101 = some (.wrStatus 0b01010101) ∧
    decodeTableWord 16 0b101001010101 = some (.wrFrame0 0b01010101) ∧
    decodeTableWord 16 0b101100000001 = some (.wrFrame1 0b00000001) ∧
    decodeTableWord 16 0b110010000000 = some (.wrFrame2 0b10000000) ∧
    decodeTableWord 16 0b110100110011 = some (.wrFrame3 0b00110011) ∧
    decodeTableWord 16 0b111000001111 = some (.wrFrame4 0b00001111) ∧
    decodeTableWord 16 0b111111111111 = some (.wrState 0b11111111) := by decide

theorem test_decode_reads :
    decodeTableWord 16 0b000010100101 = some (.rdCtrl 0b10100101) ∧
    decodeTableWord 16 0b000100000000 = some (.rdStatus 0) ∧
    decodeTableWord 16 0b001000000000 = some (.rdFrame0 0) ∧
    decodeTableWord 16 0b001100000000 = some (.rdFrame1 0) ∧
    decodeTableWord 16 0b010000000000 = some (.rdFrame2 0) ∧
    decodeTableWord 16 0b010100000000 = some (.rdFrame3 0) ∧
    decodeTableWord 16 0b011000000000 = some (.rdFrame4 0) ∧
    decodeTableWord 16 0b011100000000 = some (.rdState 0) := by decide

theorem test_decode_states :
    decodeTableWord 8 0b0000 = some .idle ∧ decodeTableWord 8 0b0001 = some .arm ∧
    decodeTableWord 8 0b0010 = some .busIdle ∧ decodeTableWord 8 0b0011 = some .startLow ∧
    decodeTableWord 8 0b0100 = some .release ∧ decodeTableWord 8 0b0101 = some .ackH1 ∧
    decodeTableWord 8 0b0110 = some .ackL ∧ decodeTableWord 8 0b0111 = some .ackH2 ∧
    decodeTableWord 8 0b1000 = some .bitL ∧ decodeTableWord 8 0b1001 = some .bitH ∧
    decodeTableWord 8 0b1010 = some .check ∧ decodeTableWord 8 0b1011 = some .reserved11 ∧
    decodeTableWord 8 0b1100 = some (.reserved1215 0b1100) ∧
    decodeTableWord 8 0b1111 = some (.reserved1215 0b1111) := by decide

/-- Bytes that are no instruction's bits are rejected by name (log entry 12). -/
theorem test_decode_rejects :
    codeOfBytes [] = .error .wrongLength ∧ codeOfBytes [1, 2, 3] = .error .wrongLength ∧
    codeOfBytes [0x10] = .error .bitsAboveWord ∧ codeOfBytes [0x01, 0x18] = .error .bitsAboveWord :=
  ⟨rfl, rfl, rfl, rfl⟩

theorem test_encode : encode (.start 0x01) = .host 0x801 ∧ encode (.rdFrame4 0) = .host 0x600 ∧
    encode .bitH = .state 9 ∧ encodeBytes (.wrState 0x5A) = [0x5A, 0x0F] := by decide

/-! ## The fetched word runs -/

theorem test_fetch_host : (after (step (State.reset.withFetchWord 16 0x801)) State.reset).st = 1 := by decide

theorem test_fetch_state :
    (after (step (State.reset.withFetchWord 8 5)) State.reset).cnt = 1 := by decide

/-! ## Host operations (95_test_vectors.md section 2.7) -/

theorem test_start_from_reset : (run1 (.start 0x01) State.reset).st = 1 ∧
    statusReg (run1 (.start 0x01) State.reset) = 0x01 ∧
    stateReg (run1 (.start 0xFF) State.reset) = 0x01 := by decide

theorem test_start_clears_and_is_ignored_when_busy :
    (run1 (.start 0x01) afterP1).frame = ⟨0, 0, 0, 0, 0⟩ ∧
    statusReg (run1 (.start 0x01) afterP1) = 0x01 ∧
    run1 (.start 0x01) (during 2 7 true) = during 2 7 true := by decide

theorem test_wrCtrlNop : run1 (.wrCtrlNop 0xFE) State.reset = State.reset := by decide
theorem test_wrStatus : statusReg (run1 (.wrStatus 0x55) afterP1) = 0x02 := by decide
theorem test_wrFrame0 : (run1 (.wrFrame0 0x55) afterP1).frame.b0 = 0x02 := by decide
theorem test_wrFrame1 : (run1 (.wrFrame1 0x55) afterP1).frame.b1 = 0x8C := by decide
theorem test_wrFrame2 : (run1 (.wrFrame2 0x55) afterP1).frame.b2 = 0x01 := by decide
theorem test_wrFrame3 : (run1 (.wrFrame3 0x55) afterP1).frame.b3 = 0x05 := by decide
theorem test_wrFrame4 : (run1 (.wrFrame4 0x55) afterP1).frame.b4 = 0x94 := by decide
theorem test_wrState : stateReg (run1 (.wrState 0xFF) afterP1) = 0x00 := by decide

theorem test_rdCtrl : (run1 (.rdCtrl 0xA5) { afterP1 with rdata := 0xFF }).rdata = 0x00 := by decide

theorem test_rdStatus : (run1 (.rdStatus 0) afterP1).rdata = 0x02 ∧
    (run1 (.rdStatus 0) (during 2 0 true)).rdata = 0x01 ∧
    (run1 (.rdStatus 0) { State.reset with done := true, result := 1 }).rdata = 0x06 ∧
    (run1 (.rdStatus 0) { State.reset with done := true, result := 2 }).rdata = 0x0A ∧
    (run1 (.rdStatus 0) { State.reset with done := true, result := 3 }).rdata = 0x0E ∧
    (run1 (.rdStatus 0) { State.reset with done := true, result := 4 }).rdata = 0x12 := by decide

theorem test_rdFrame0 : (run1 (.rdFrame0 0) afterP1).rdata = 0x02 := by decide
theorem test_rdFrame1 : (run1 (.rdFrame1 0) afterP1).rdata = 0x8C := by decide
theorem test_rdFrame2 : (run1 (.rdFrame2 0) afterP1).rdata = 0x01 := by decide
theorem test_rdFrame3 : (run1 (.rdFrame3 0) afterP1).rdata = 0x05 := by decide
theorem test_rdFrame4 : (run1 (.rdFrame4 0) afterP1).rdata = 0x94 := by decide
theorem test_rdState : (run1 (.rdState 0) (during 8 1 false)).rdata = 0x08 := by decide

/-! ## Micro-operations (95_test_vectors.md sections 1.5, 1.6, 2.2 to 2.4) -/

theorem test_idle : run1 .idle afterP1 = afterP1 := by decide

theorem test_arm_claims : run1 .arm { during 1 0 true with lineAvail := true } =
    { during 2 0 true with lineAvail := true, lineOe := true, lineOut := true } := by decide

theorem test_arm_fails :
    statusReg (run1 .arm { during 1 0 true with lineAvail := false }) = 0x0E ∧
    (run1 .arm { during 1 0 true with lineAvail := false }).lineOe = false := by decide

theorem test_busIdle : (run1 .busIdle (during 2 998 true)).cnt = 999 ∧
    (run1 .busIdle (during 2 998 true)).st = 2 ∧
    (run1 .busIdle (during 2 999 true)).st = 3 ∧
    (run1 .busIdle (during 2 999 true)).lineOut = false ∧
    (run1 .busIdle (during 2 999 true)).cnt = 0 := by decide

theorem test_startLow : (run1 .startLow (during 3 1098 true)).st = 3 ∧
    (run1 .startLow (during 3 1099 true)).st = 4 ∧
    (run1 .startLow (during 3 1099 true)).lineOut = true ∧
    (run1 .startLow (during 3 1099 true)).lineOe = true := by decide

theorem test_release : (run1 .release { during 4 0 false with lineOe := true }).st = 5 ∧
    (run1 .release { during 4 0 false with lineOe := true }).lineOe = false ∧
    (run1 .release { during 4 0 false with lineOe := true }).cnt = 0 := by decide

theorem test_ackH1_passes : (run1 .ackH1 (during 5 0 false)).st = 6 ∧
    (run1 .ackH1 (during 5 30 false)).st = 6 ∧ (run1 .ackH1 (during 5 30 false)).cnt = 1 ∧
    (run1 .ackH1 (during 5 199 false)).st = 6 ∧ (run1 .ackH1 (during 5 29 true)).cnt = 30 := by decide

theorem test_ackH1_times_out : statusReg (run1 .ackH1 (during 5 200 false)) = 0x06 ∧
    statusReg (run1 .ackH1 (during 5 200 true)) = 0x06 := by decide

theorem test_ackL_window : statusReg (run1 .ackL (during 6 69 true)) = 0x06 ∧
    (run1 .ackL (during 6 70 true)).st = 7 ∧ (run1 .ackL (during 6 90 true)).st = 7 ∧
    statusReg (run1 .ackL (during 6 91 true)) = 0x06 := by decide

theorem test_ackL_counts : (run1 .ackL (during 6 91 false)).st = 6 ∧
    (run1 .ackL (during 6 79 false)).cnt = 80 ∧
    statusReg (run1 .ackL (during 6 200 false)) = 0x06 := by decide

theorem test_ackH2_window : statusReg (run1 .ackH2 (during 7 69 false)) = 0x06 ∧
    (run1 .ackH2 { during 7 70 false with bitidx := 3 }).st = 8 ∧
    (run1 .ackH2 { during 7 90 false with bitidx := 3 }).bitidx = 0 ∧
    statusReg (run1 .ackH2 (during 7 91 false)) = 0x06 := by decide

theorem test_ackH2_counts : (run1 .ackH2 (during 7 79 true)).cnt = 80 ∧
    statusReg (run1 .ackH2 (during 7 200 true)) = 0x06 := by decide

theorem test_bitL_latches : (run1 .bitL (during 8 54 true)).lowdur = 54 ∧
    (run1 .bitL (during 8 54 true)).st = 9 ∧ (run1 .bitL (during 8 54 true)).cnt = 1 ∧
    (run1 .bitL (during 8 199 true)).lowdur = 199 := by decide

theorem test_bitL_times_out : statusReg (run1 .bitL (during 8 200 true)) = 0x06 ∧
    statusReg (run1 .bitL (during 8 200 false)) = 0x06 ∧
    (run1 .bitL (during 8 199 false)).cnt = 200 := by decide

/-- The tick 2397 of section 2.4, the same slot with a High of 70, and the last slot. -/
theorem test_bitH_packs :
    run1 .bitH { during 9 50 false with lowdur := 54 } =
      { during 8 1 false with lowdur := 54, bitidx := 1 } ∧
    (run1 .bitH { during 9 70 false with lowdur := 54 }).asm = ⟨0x80, 0, 0, 0, 0⟩ ∧
    (run1 .bitH { during 9 70 false with lowdur := 54, bitidx := 39 }).asm = ⟨0, 0, 0, 0, 0x01⟩ ∧
    (run1 .bitH { during 9 70 false with lowdur := 54, bitidx := 39 }).st = 10 ∧
    (run1 .bitH { during 9 70 false with lowdur := 54, bitidx := 39 }).bitidx = 40 := by decide

theorem test_bitH_times_out : statusReg (run1 .bitH (during 9 200 false)) = 0x06 ∧
    statusReg (run1 .bitH (during 9 200 true)) = 0x06 ∧
    (run1 .bitH (during 9 199 false)).st = 8 := by decide

theorem test_check_publishes :
    (run1 .check (checking ⟨0x02, 0x8C, 0x01, 0x05, 0x94⟩)).frame = ⟨0x02, 0x8C, 0x01, 0x05, 0x94⟩ ∧
    statusReg (run1 .check (checking ⟨0x02, 0x8C, 0x01, 0x05, 0x94⟩)) = 0x02 := by decide

theorem test_check_fails :
    (run1 .check (checking ⟨0x02, 0x8C, 0x01, 0x05, 0x92⟩)).frame = ⟨0, 0, 0, 0, 0⟩ ∧
    statusReg (run1 .check (checking ⟨0x02, 0x8C, 0x01, 0x05, 0x92⟩)) = 0x0A := by decide

theorem test_reserved11 : statusReg (run1 .reserved11 (during 11 0 true)) = 0x12 := by decide
theorem test_reserved1215 : statusReg (run1 (.reserved1215 15) (during 15 0 true)) = 0x12 := by decide

/-! ## Shared functions (95_test_vectors.md sections 2.1, 2.4) -/

theorem test_pt : pt true 0 false = .finish 0 ∧ pt true 0 true = .cont 1 ∧ pt true 5 true = .cont 6 ∧
    pt true 5 false = .finish 5 ∧ pt false 199 false = .cont 200 ∧ pt false 200 false = .finish 201 ∧
    pt false 200 true = .finish 200 ∧ pt true 1 false = .finish 1 := by decide

theorem test_bit_decide : bitDecide 54 70 = true ∧ bitDecide 54 50 = false ∧ bitDecide 54 54 = false ∧
    bitDecide 54 55 = true ∧ bitDecide 1 1 = false ∧ bitDecide 199 199 = false ∧
    bitDecide 1 199 = true ∧ bitDecide 199 1 = false := by decide

theorem test_pack : pack Frame.zero 0 true = ⟨0x80, 0, 0, 0, 0⟩ ∧
    pack Frame.zero 7 true = ⟨0x01, 0, 0, 0, 0⟩ ∧ pack Frame.zero 8 true = ⟨0, 0x80, 0, 0, 0⟩ ∧
    pack Frame.zero 13 true = ⟨0, 0x04, 0, 0, 0⟩ ∧ pack Frame.zero 39 true = ⟨0, 0, 0, 0, 0x01⟩ ∧
    pack Frame.zero 20 false = Frame.zero := by decide

theorem test_checksum : checksumOk ⟨0x02, 0x8C, 0x01, 0x05, 0x94⟩ = true ∧
    checksumOk ⟨0x02, 0x8C, 0x01, 0x05, 0x93⟩ = false ∧ checksumOk ⟨0x19, 0, 0x01, 0x05, 0x1F⟩ = true ∧
    checksumOk ⟨0xFF, 0xFF, 0xFF, 0xFF, 0xFC⟩ = true ∧ checksumOk ⟨0xFF, 0xFF, 0xFF, 0xFF, 0xFF⟩ = false ∧
    checksumOk ⟨0x80, 0x80, 0, 0, 0⟩ = true ∧ checksumOk ⟨0x02, 0x8C, 0x81, 0x05, 0x14⟩ = true := by decide

/-! ## Reset (95_test_vectors.md section 2.9) -/

theorem test_reset_in_transaction :
    after (rstStep true { during 6 30 false with lineOe := false }) State.reset =
      { State.reset with rst := true, lineIn := false } := by decide

theorem test_reset_hides_the_frame : statusReg (after (rstStep true afterP1) afterP1) = 0x00 ∧
    (after (hostStep 0x200 { afterP1 with rst := true }) afterP1).rdata = 0x00 ∧
    (after (hostStep 0x801 { State.reset with rst := true }) State.reset).st = 0 := by decide

/-! ## Host side (30_encoding.md R84, R85; 95_test_vectors.md section 2.5) -/

theorem test_parse :
    parseLine "  start ; go".toList = .ok (some .start) ∧ parseLine "POLL".toList = .ok (some .poll) ∧
    parseLine "wait 2201".toList = .ok (some (.wait 2201)) ∧ parseLine "; only a comment".toList = .ok none ∧
    parseLine "wr frame0, 0x55".toList = .ok (some (.wr .frame0 0x55)) ∧
    parseLine "wr ctrl, 256".toList = .error .badNumber ∧
    parseLine "rd frame5".toList = .error .unknownRegister ∧
    parseLine "halt".toList = .error .unknownOperation ∧
    parseLine "start now".toList = .error .wrongOperands := by
  refine ⟨?_, ?_, ?_, ?_, ?_, ?_, ?_, ?_, ?_⟩ <;> rfl

theorem test_decoders :
    temperatureTenths ⟨0, 0, 0x01, 0x05, 0⟩ = 261 ∧ temperatureTenths ⟨0, 0, 0x81, 0x05, 0⟩ = -261 ∧
    temperatureTenths ⟨0, 0, 0x80, 0x00, 0⟩ = 0 ∧ temperatureTenths ⟨0, 0, 0x7F, 0xFF, 0⟩ = 32767 ∧
    temperatureTenths ⟨0, 0, 0xFF, 0xFF, 0⟩ = -32767 ∧ temperatureTenths ⟨0, 0, 0x80, 0x65, 0⟩ = -101 ∧
    humidityTenths ⟨0x02, 0x8C, 0, 0, 0⟩ = 652 ∧ humidityTenths ⟨0x19, 0x00, 0, 0, 0⟩ = 6400 ∧
    humidityTenths ⟨0xFF, 0xFF, 0, 0, 0⟩ = 65535 ∧ humidityTenths ⟨0x80, 0x00, 0, 0, 0⟩ = 32768 := by decide

theorem test_nMax : nMax = 18403 := by decide

/-! ## Witnesses: the hypotheses of each statement can be met -/

theorem witness_EncodedInstructionDecodesToItself :
    Instr.wf (.start 0xFF) = true ∧ Instr.wf (.wrCtrlNop 0xFE) = true ∧ Instr.wf (.rdState 0xFF) = true ∧
    Instr.wf .idle = true ∧ Instr.wf (.reserved1215 12) = true ∧ Instr.wf (.reserved1215 15) = true := by
  decide

theorem witness_DecodedBytesAreTheEncoding :
    decodeBytes [0x0F] = .ok (.reserved1215 15) ∧ decodeBytes [0x00, 0x00] = .ok (.rdCtrl 0) ∧
    decodeBytes [0xFF, 0x0F] = .ok (.wrState 0xFF) := ⟨rfl, rfl, rfl⟩

/-- Every clause is met by a word. -/
theorem witness_BusWordDecodesByItsFields :
    (BitVec.getLsbD (0x801 : BusWord) 11 = true ∧ BitVec.extractLsb' 8 3 (0x801 : BusWord) = 0 ∧
      BitVec.getLsbD (0x801 : BusWord) 0 = true) ∧
    (BitVec.getLsbD (0x8FE : BusWord) 11 = true ∧ BitVec.extractLsb' 8 3 (0x8FE : BusWord) = 0 ∧
      BitVec.getLsbD (0x8FE : BusWord) 0 = false) ∧
    (∀ a : BitVec 3, a ≠ 0 → BitVec.getLsbD (1#1 ++ a ++ 0xFF#8) 11 = true ∧
      BitVec.extractLsb' 8 3 (1#1 ++ a ++ 0xFF#8) = a) ∧
    (∀ a : BitVec 3, BitVec.getLsbD (0#1 ++ a ++ 0x00#8) 11 = false ∧
      BitVec.extractLsb' 8 3 (0#1 ++ a ++ 0x00#8) = a) := by decide

theorem witness_EveryCodeHasExactlyOneRow :
    (rowOf (.start 1)).admits (.host 0x8FF) = true ∧ (rowOf (.wrState 0)).admits (.host 0xFFF) = true ∧
    (rowOf .idle).admits (.state 0) = true ∧ (rowOf (.reserved1215 12)).admits (.state 15) = true := by decide

theorem witness_HostAccessRunsTheDecodedOperation :
    State.rst { State.reset with agenda := [.host 0x801] } = false ∧
    State.agenda { State.reset with agenda := [.host 0x801] } = .host 0x801 :: [] := by decide

theorem witness_TickRunsTheMicroOperationOfTheState :
    State.rst { during 5 0 true with agenda := [.tick false true] } = false ∧
    State.agenda { during 5 0 true with agenda := [.tick false true] } = .tick false true :: [] := by decide

theorem witness_EmptyAgendaTicksWithFreeDraws :
    State.reset.rst = false ∧ State.reset.agenda = [] := by decide

/-- The accepting clause and, at its nearest neighbour, the ignoring clause. -/
theorem witness_StartIsAcceptedOnlyInIdle : State.reset.st = 0 ∧ (during 1 0 true).st ≠ 0 := by decide

theorem witness_OnlyAnIdleStartWrites :
    (BitVec.getLsbD (0x800 : BusWord) 11 = true ∧ ¬(BitVec.extractLsb' 8 3 (0x800 : BusWord) = 0 ∧
      BitVec.getLsbD (0x800 : BusWord) 0 = true ∧ busy State.reset = false)) ∧
    (BitVec.getLsbD (0x801 : BusWord) 11 = true ∧ ¬(BitVec.extractLsb' 8 3 (0x801 : BusWord) = 0 ∧
      BitVec.getLsbD (0x801 : BusWord) 0 = true ∧ busy (during 10 1 true) = false)) ∧
    (BitVec.getLsbD (0x801 : BusWord) 11 = true ∧ BitVec.extractLsb' 8 3 (0x801 : BusWord) = 0 ∧
      BitVec.getLsbD (0x801 : BusWord) 0 = true ∧ busy State.reset = false) := by decide

theorem witness_NoHostAccessDisturbsATransaction :
    (during 1 0 true).rst = false ∧ busy (during 1 0 true) = true ∧
    hostStep 0x801 (during 1 0 true) = .next (during 1 0 true) := ⟨by decide, by decide, rfl⟩

/-- The invariant field by field, for a state whose buffer is clear in the data phase. -/
theorem inv_of_fields {s : State} (he : EngineInv s)
    (h1 : s.st.toNat ≤ 10 ∧ s.result.toNat ≤ 3 ∧ (s.done = false → s.result = codeOk))
    (h2 : (sleepTicks s.st).all (fun n => decide (s.cnt.toNat < n)) = true)
    (h3 : s.cnt.toNat ≤ 1100 ∧ (measuring s.st = true → s.st ≠ stAckH1 → 1 ≤ s.cnt.toNat) ∧
      s.bitidx.toNat ≤ 40 ∧ (s.st = stBitH → 1 ≤ s.lowdur.toNat ∧ s.lowdur.toNat < 200))
    (h4 : beforeData s.st = true → s.asm = Frame.zero)
    (h5 : s.st = stBitL ∨ s.st = stBitH → s.asm = Frame.zero)
    (h6 : s.done = true ∧ s.result = codeOk → checksumOk s.frame = true)
    (h7 : s.rst = true → toReset s = s) : Safety.Inv s where
  toEngineInv := he
  legalState := h1.1
  legalResult := h1.2.1
  noResult := h1.2.2
  sleeping := fun n hn => by rw [hn] at h2; exact of_decide_eq_true h2
  countRange := h3.1
  counted := h3.2.1
  slotRange := h3.2.2.1
  lowLatched := h3.2.2.2
  asmClear := h4
  slotsClear := fun h j _ hj => by
    rw [h5 h]
    have : ∀ j : Fin 40, slotBit Frame.zero j = false := by decide
    exact this ⟨j, hj⟩
  okChecksum := h6
  heldInReset := h7

theorem inv_reset : Safety.Inv State.reset :=
  inv_of_fields ⟨by decide, by decide, by decide, by decide, by decide, by decide, by decide, by decide,
    by decide⟩ (by decide) (by decide) (by decide) (by decide) (by decide) (by decide) (by decide)

theorem inv_afterP1 : Safety.Inv afterP1 :=
  inv_of_fields ⟨by decide, by decide, by decide, by decide, by decide, by decide, by decide, by decide,
    by decide⟩ (by decide) (by decide) (by decide) (by decide) (by decide) (by decide) (by decide)

theorem inv_ackL : Safety.Inv (during 6 90 false) :=
  inv_of_fields ⟨by decide, by decide, by decide, by decide, by decide, by decide, by decide, by decide,
    by decide⟩ (by decide) (by decide) (by decide) (by decide) (by decide) (by decide) (by decide)

theorem inv_arm : Safety.Inv (during 1 0 true) :=
  inv_of_fields ⟨by decide, by decide, by decide, by decide, by decide, by decide, by decide, by decide,
    by decide⟩ (by decide) (by decide) (by decide) (by decide) (by decide) (by decide) (by decide)

theorem inv_checking : Safety.Inv (checking ⟨0x02, 0x8C, 0x01, 0x05, 0x92⟩) :=
  inv_of_fields ⟨by decide, by decide, by decide, by decide, by decide, by decide, by decide, by decide,
    by decide⟩ (by decide) (by decide) (by decide) (by decide) (by decide) (by decide) (by decide)

theorem inv_acquisition : Safety.Inv { State.reset with done := true, result := 3 } :=
  inv_of_fields ⟨by decide, by decide, by decide, by decide, by decide, by decide, by decide, by decide,
    by decide⟩ (by decide) (by decide) (by decide) (by decide) (by decide) (by decide) (by decide)

theorem witness_ReadStatusGivesTheFlags :
    (Safety.Inv (during 6 90 false) ∧ busy (during 6 90 false) = true) ∧
    (Safety.Inv afterP1 ∧ afterP1.done = true) ∧
    (Safety.Inv { State.reset with done := true, result := 3 } ∧
      State.done { State.reset with done := true, result := 3 } = true) :=
  ⟨⟨inv_ackL, by decide⟩, ⟨inv_afterP1, by decide⟩, ⟨inv_acquisition, by decide⟩⟩

theorem witness_ReadFrameGivesItsBytes :
    (Safety.Inv State.reset ∧ ¬(State.reset.done = true ∧ State.reset.result = 0)) ∧
    (Safety.Inv afterP1 ∧ afterP1.done = true ∧ afterP1.result = 0) :=
  ⟨⟨inv_reset, by decide⟩, ⟨inv_afterP1, by decide⟩⟩

theorem witness_ReadStateGivesTheCode : Safety.Inv (during 6 90 false) := inv_ackL

theorem witness_ReadsHaveNoSideEffect : BitVec.getLsbD (0x100 : BusWord) 11 = false ∧
    BitVec.getLsbD (0x7FF : BusWord) 11 = false := by decide

theorem witness_IdleChangesNothing : afterP1.rst = false ∧ afterP1.st = 0 := by decide

theorem witness_ArmClaimsThePadOrFails :
    State.lineAvail { during 1 0 true with lineAvail := true } = true ∧
    State.lineAvail { during 1 0 true with lineAvail := false } = false := by decide

theorem witness_BusIdleLastsItsTicks :
    (during 2 999 true).cnt.toNat + 1 = 1000 ∧ (during 2 998 true).cnt.toNat + 1 ≠ 1000 ∧
    (during 2 0 true).rst = false ∧ (during 2 0 true).st = 2 ∧ (during 2 0 true).cnt = 0 ∧
    (List.replicate 999 (true, true)).length < 1000 ∧ (List.replicate 1000 (true, true)).length = 1000 :=
  ⟨by decide, by decide, by decide, by decide, by decide,
    by rw [List.length_replicate]; decide, List.length_replicate⟩

theorem witness_StartLowLastsItsTicks :
    (during 3 1099 true).cnt.toNat + 1 = 1100 ∧ (during 3 1098 true).cnt.toNat + 1 ≠ 1100 ∧
    (during 3 0 true).rst = false ∧ (during 3 0 true).st = 3 ∧ (during 3 0 true).cnt = 0 ∧
    (List.replicate 1099 (true, true)).length < 1100 ∧ (List.replicate 1100 (true, true)).length = 1100 :=
  ⟨by decide, by decide, by decide, by decide, by decide,
    by rw [List.length_replicate]; decide, List.length_replicate⟩

theorem witness_ReleaseSwitchesToInput :
    (during 4 0 true).cnt.toNat + 1 = 1 ∧ (during 4 1 true).cnt.toNat + 1 ≠ 1 := by decide

/-- Each clause at the values where it meets its neighbour: counts 199 and 200. -/
theorem witness_FirstAckHighAcceptsAnyLengthBelowTimeout :
    ((during 5 199 true).lineIn = true ∧ (during 5 199 true).cnt.toNat + 1 ≤ 200) ∧
    ((during 5 200 true).lineIn = true ∧ 200 < (during 5 200 true).cnt.toNat + 1) ∧
    ((during 5 0 false).lineIn = false ∧ (during 5 0 false).cnt.toNat < 200) ∧
    ((during 5 199 false).lineIn = false ∧ (during 5 199 false).cnt.toNat < 200) ∧
    ((during 5 200 false).lineIn = false ∧ 200 ≤ (during 5 200 false).cnt.toNat) := by decide

theorem witness_AckLowPassesOnlyInItsWindow :
    ((during 6 199 false).lineIn = false ∧ (during 6 199 false).cnt.toNat + 1 ≤ 200) ∧
    ((during 6 200 false).lineIn = false ∧ 200 < (during 6 200 false).cnt.toNat + 1) ∧
    ((during 6 70 true).lineIn = true ∧ 70 ≤ (during 6 70 true).cnt.toNat ∧
      (during 6 70 true).cnt.toNat ≤ 90) ∧
    ((during 6 90 true).lineIn = true ∧ 70 ≤ (during 6 90 true).cnt.toNat ∧
      (during 6 90 true).cnt.toNat ≤ 90) ∧
    ((during 6 69 true).lineIn = true ∧
      ((during 6 69 true).cnt.toNat < 70 ∨ 90 < (during 6 69 true).cnt.toNat)) ∧
    ((during 6 91 true).lineIn = true ∧
      ((during 6 91 true).cnt.toNat < 70 ∨ 90 < (during 6 91 true).cnt.toNat)) := by decide

theorem witness_SecondAckHighPassesOnlyInItsWindow :
    ((during 7 199 true).lineIn = true ∧ (during 7 199 true).cnt.toNat + 1 ≤ 200) ∧
    ((during 7 200 true).lineIn = true ∧ 200 < (during 7 200 true).cnt.toNat + 1) ∧
    ((during 7 70 false).lineIn = false ∧ 70 ≤ (during 7 70 false).cnt.toNat ∧
      (during 7 70 false).cnt.toNat ≤ 90) ∧
    ((during 7 90 false).lineIn = false ∧ 70 ≤ (during 7 90 false).cnt.toNat ∧
      (during 7 90 false).cnt.toNat ≤ 90) ∧
    ((during 7 69 false).lineIn = false ∧
      ((during 7 69 false).cnt.toNat < 70 ∨ 90 < (during 7 69 false).cnt.toNat)) ∧
    ((during 7 91 false).lineIn = false ∧
      ((during 7 91 false).cnt.toNat < 70 ∨ 90 < (during 7 91 false).cnt.toNat)) := by decide

theorem witness_ReservedCodeCompletesWithInternal :
    Safety.Inv (checking ⟨0x02, 0x8C, 0x01, 0x05, 0x92⟩) := inv_checking

theorem witness_BitLowLatchesItsDuration :
    ((during 8 199 false).lineIn = false ∧ (during 8 199 false).cnt.toNat + 1 ≤ 200) ∧
    ((during 8 200 false).lineIn = false ∧ 200 < (during 8 200 false).cnt.toNat + 1) ∧
    ((during 8 1 true).lineIn = true ∧ (during 8 1 true).cnt.toNat < 200) ∧
    ((during 8 199 true).lineIn = true ∧ (during 8 199 true).cnt.toNat < 200) ∧
    ((during 8 200 true).lineIn = true ∧ 200 ≤ (during 8 200 true).cnt.toNat) := by decide

/-- Also the two sides of the comparison at equal durations and one apart. -/
theorem witness_BitHighDecidesAndPacksTheBit :
    ((during 9 199 true).lineIn = true ∧ (during 9 199 true).cnt.toNat + 1 ≤ 200) ∧
    ((during 9 200 true).lineIn = true ∧ 200 < (during 9 200 true).cnt.toNat + 1) ∧
    ((during 9 55 false).lineIn = false ∧ (during 9 55 false).cnt.toNat < 200 ∧
      (State.lowdur { during 9 55 false with lowdur := 54 }).toNat < (during 9 55 false).cnt.toNat) ∧
    ((during 9 54 false).lineIn = false ∧ (during 9 54 false).cnt.toNat < 200 ∧
      (during 9 54 false).cnt.toNat ≤ (State.lowdur { during 9 54 false with lowdur := 54 }).toNat) ∧
    ((during 9 200 false).lineIn = false ∧ 200 ≤ (during 9 200 false).cnt.toNat) := by decide

/-- Slots at both ends and on both sides of a byte's end. -/
theorem witness_PackWritesOneSlot : (0 < 40 ∧ 39 < 40 ∧ 7 < 40 ∧ 8 < 40 ∧ 7 ≠ 8) ∧ (0 < 8 ∧ 7 < 8) := by
  decide

theorem witness_CheckPublishesOnlyASoundFrame :
    ((checking ⟨0x80, 0x80, 0, 0, 0⟩).asm.b4.toNat =
      ((checking ⟨0x80, 0x80, 0, 0, 0⟩).asm.b0.toNat + (checking ⟨0x80, 0x80, 0, 0, 0⟩).asm.b1.toNat
        + (checking ⟨0x80, 0x80, 0, 0, 0⟩).asm.b2.toNat + (checking ⟨0x80, 0x80, 0, 0, 0⟩).asm.b3.toNat)
        % 256) ∧
    ((checking ⟨0x80, 0x80, 0, 0, 1⟩).asm.b4.toNat ≠
      ((checking ⟨0x80, 0x80, 0, 0, 1⟩).asm.b0.toNat + (checking ⟨0x80, 0x80, 0, 0, 1⟩).asm.b1.toNat
        + (checking ⟨0x80, 0x80, 0, 0, 1⟩).asm.b2.toNat + (checking ⟨0x80, 0x80, 0, 0, 1⟩).asm.b3.toNat)
        % 256) := by decide

theorem witness_PulseTimerStep : (false ≠ true) ∧ (200 < 200 + 1) ∧ (199 + 1 ≤ 200) := by decide

theorem witness_MeasurementDurationIsTheRunLength : (1 + 199 ≤ 200) ∧ (1 ≤ 200 ∧ 1 + 200 = 201) := by decide

theorem witness_MeasurementBeginsWithItsFirstSample :
    ((during 4 0 true).rst = false ∧
      engineStep true true (during 4 0 true) = .next { during 5 0 true with lineIn := true } ∧
      measuring 5 = true ∧ (5 : StateCode) ≠ (during 4 0 true).st) ∧
    ((during 6 70 true).rst = false ∧
      engineStep true true (during 6 70 true) = .next { during 7 1 true with lineIn := true } ∧
      measuring 7 = true ∧ (7 : StateCode) ≠ (during 6 70 true).st) :=
  ⟨⟨by decide, rfl, by decide, by decide⟩, ⟨by decide, rfl, by decide, by decide⟩⟩

theorem witness_MeasuringChangesOnlyTheCount :
    (during 5 199 true).rst = false ∧ measuring (during 5 199 true).st = true ∧
    engineStep true true (during 5 199 true) = .next (during 5 200 true) ∧
    (during 5 200 true).st = (during 5 199 true).st := ⟨by decide, by decide, rfl, by decide⟩

theorem witness_StuckLineTimesOut :
    (during 5 0 true).rst = false ∧ measuring (during 5 0 true).st = true ∧
    (during 5 0 true).cnt.toNat ≤ 200 ∧
    (during 5 0 true).cnt.toNat + (List.replicate 200 true).length ≤ 200 ∧
    200 < (during 5 0 true).cnt.toNat + (List.replicate 201 true).length :=
  ⟨by decide, by decide, by decide, by rw [List.length_replicate]; decide,
    by rw [List.length_replicate]; decide⟩

theorem witness_CompletionReleasesTheLineAndRecordsTheCode :
    (during 5 200 false).rst = false ∧ busy (during 5 200 false) = true ∧
    engineStep false true (during 5 200 false) =
      .next { during 0 200 false with done := true, result := 1 } := ⟨by decide, by decide, rfl⟩

theorem witness_EachResultHasItsCauses :
    (during 6 90 false).rst = false ∧ busy (during 6 90 false) = true ∧ Safety.Inv (during 6 90 false) ∧
    engineStep true true (during 6 90 false) = .next (during 7 1 true) :=
  ⟨by decide, by decide, inv_ackL, rfl⟩

/-- Both directions of the change: a completing tick, and an accepted START. -/
theorem witness_DoneChangesOnlyByCompletionStartOrReset :
    (step { checking ⟨0, 0, 0, 0, 0⟩ with agenda := [.tick true true] } =
        .next { checking ⟨0, 0, 0, 0, 0⟩ with st := 0, done := true, lineIn := true } ∧
      (checking ⟨0, 0, 0, 0, 0⟩).done = false) ∧
    (step { afterP1 with agenda := [.host 0x801] } = .next (during 1 0 true) ∧ afterP1.done = true ∧
      (during 1 0 true).done = false) := ⟨⟨rfl, by decide⟩, ⟨rfl, by decide, by decide⟩⟩

theorem witness_FrameIsWrittenOnlyByASuccessfulCheck :
    (Safety.Inv { State.reset with done := true, result := 3 } ∧
      State.done { State.reset with done := true, result := 3 } = true ∧
      State.result { State.reset with done := true, result := 3 } ≠ 0) ∧
    (step { afterP1 with agenda := [.host 0x801] } = .next (during 1 0 true) ∧
      (during 1 0 true).frame ≠ afterP1.frame) :=
  ⟨⟨inv_acquisition, by decide, by decide⟩, ⟨rfl, by decide⟩⟩

theorem witness_StatesAreVisitedInOrder :
    ((during 1 0 true).rst = false ∧ engineStep true false (during 1 0 true) =
      .next { during 0 0 true with done := true, result := 3, lineAvail := false }) ∧
    (State.reset.rst = false ∧ hostStep 0x801 State.reset = .next (during 1 0 true)) :=
  ⟨⟨by decide, rfl⟩, ⟨by decide, rfl⟩⟩

theorem witness_DrawsAreReadOnlyWhereTheRulesSay :
    ((during 4 0 true).rst = false ∧ measuring (during 4 0 true).st = false) ∧
    ((during 5 0 true).rst = false ∧ (during 5 0 true).st ≠ 1) := by decide

theorem witness_ResetTakesEffectAtOnceAndHolds :
    (State.agenda { during 6 30 false with agenda := [.rst true] } = .rst true :: []) ∧
    (State.rst { State.reset with rst := true } = true ∧
      step { State.reset with rst := true, agenda := [.rst false] } = .next State.reset) ∧
    (State.rst { State.reset with rst := true } = true ∧ BitVec.getLsbD (0x100 : BusWord) 11 = false) ∧
    (busy (during 5 200 false) = true ∧ step { during 5 200 false with agenda := [.tick false true] } =
      .next { during 0 200 false with done := true, result := 1 }) :=
  ⟨by decide, ⟨by decide, rfl⟩, by decide, ⟨by decide, rfl⟩⟩

theorem witness_EveryStepKeepsTheEngineInvariant : EngineInv (during 6 90 false) ∧
    step { during 6 90 false with agenda := [.tick true true] } = .next (during 7 1 true) :=
  ⟨inv_ackL.toEngineInv, rfl⟩

theorem witness_EveryStepKeepsTheWholeInvariant : Safety.Inv (during 6 90 false) ∧
    step { during 6 90 false with agenda := [.tick true true] } = .next (during 7 1 true) :=
  ⟨inv_ackL, rfl⟩

/-- Every length at which the waveform changes is the length of some draws. -/
theorem witness_DrivenWaveform :
    EngineInv State.reset ∧ State.reset.rst = false ∧ State.reset.st = 0 ∧
    (∀ n : Nat, (List.replicate n (true, true)).length = n ∧
      ∀ d, (List.replicate n (true, true)).head? = some d → d.2 = true) := by
  refine ⟨inv_reset.toEngineInv, by decide, by decide, fun n => ⟨List.length_replicate, ?_⟩⟩
  cases n with
  | zero => intro d h; cases h
  | succ n => intro d h; cases h; rfl

/-- Pulses of every kind: a timeout, and none. -/
theorem witness_DecidingAtOnceEqualsDecidingAtTheEnd :
    ((during 8 1 false).rst = false ∧ (during 8 1 false).st = 8 ∧ (during 8 1 false).cnt = 1 ∧
      (during 8 1 false).bitidx = 0) ∧
    ((List.replicate 40 (54, 70)).length = 40 ∧ (∀ p ∈ List.replicate 40 (54, 70), 1 ≤ p.1 ∧ 1 ≤ p.2) ∧
      ∀ p ∈ List.replicate 40 (54, 70), p.1 < 200 ∧ p.2 < 200) ∧
    ((List.replicate 40 (54, 200)).length = 40 ∧ (∀ p ∈ List.replicate 40 (54, 200), 1 ≤ p.1 ∧ 1 ≤ p.2) ∧
      ∃ p ∈ List.replicate 40 (54, 200), 200 ≤ p.1 ∨ 200 ≤ p.2) := by decide

theorem witness_WellTimedTransactionDeliversItsFrame :
    State.reset.rst = false ∧ State.reset.st = 0 ∧ (List.replicate 2102 (true, true)).length = 2102 ∧
    (∀ d, (List.replicate 2102 (true, true)).head? = some d → d.2 = true) ∧
    (199 < 200 ∧ 70 ≤ 70 ∧ 70 ≤ 90 ∧ 70 ≤ 90 ∧ 90 ≤ 90) ∧ (List.replicate 40 (1, 199)).length = 40 ∧
    ∀ p ∈ List.replicate 40 (1, 199), 1 ≤ p.1 ∧ p.1 < 200 ∧ 1 ≤ p.2 ∧ p.2 < 200 :=
  ⟨by decide, by decide, List.length_replicate, fun d h => by cases h; rfl, by decide, by decide, by decide⟩

theorem witness_NominalStimulusReadsBackTheFrame :
    afterP1.rst = false ∧ afterP1.st = 0 ∧
    10 = ((List.range 40).filter fun i => slotBit ⟨0x02, 0x8C, 0x01, 0x05, 0x94⟩ i).length := by decide

theorem witness_EveryTransactionEndsWithinTheBound :
    State.reset.rst = false ∧ State.reset.st = 0 ∧
    (List.replicate 18403 (true, true)).length = 18403 := ⟨by decide, by decide, List.length_replicate⟩

theorem witness_CallerOperationsAlwaysAnswer : State.reset.rst = false ∧ State.reset.st = 0 := by decide

/-- Both sides of the sign bit. -/
theorem witness_TemperatureIsSignMagnitude :
    (Frame.b2 ⟨0, 0, 0x7F, 0xFF, 0⟩).toNat < 128 ∧ 128 ≤ (Frame.b2 ⟨0, 0, 0x80, 0, 0⟩).toNat := by decide

end Sys2Proof.Tests
end

/-! SUPPORT. Proofs of the statements of 00_scope.md: one step from a listed event, and the acceptance of a
configuration. -/

namespace Sys2Proof.Machine

/-- A step from a listed agenda performs its head (00_scope.md R14). -/
theorem step_of_agenda_cons {s : State} {e : Event} {rest : List Event} (h : s.agenda = e :: rest) :
    step s = perform e { s with agenda := rest } := by
  simp only [step, takeEvent, h]

/-- A host step with reset released is the decoded operation (10_state.md R36). -/
theorem hostStep_eq {s : State} (w : BusWord) (hr : s.rst = false) :
    hostStep w s = exec (decodeHost w) s := by
  simp only [hostStep, hr, Bool.false_eq_true, if_false]

/-- Settles O7: the head of the agenda is performed, and a released host step is the decoded operation. -/
theorem hostAccessRunsTheDecodedOperation : Obligations.HostAccessRunsTheDecodedOperation := by
  intro s w rest hr hagenda
  calc step s = hostStep w { s with agenda := rest } := step_of_agenda_cons hagenda
    _ = exec (decodeHost w) { s with agenda := rest } := hostStep_eq w hr

/-- Settles O8: the head of the agenda is performed, and a released engine step is the micro-operation of the
state code, which the draws at the ports leave as it was. -/
theorem tickRunsTheMicroOperationOfTheState : Obligations.TickRunsTheMicroOperationOfTheState := by
  intro s a v rest hr hagenda
  calc step s = engineStep a v { s with agenda := rest } := step_of_agenda_cons hagenda
    _ = exec (decodeState s.st) (takeDraws a v { s with agenda := rest }) := engineStep_eq hr

end Sys2Proof.Machine

namespace Sys2Proof

/-- The check of a configuration is the conjunction of the constraints of 00_scope.md R8. -/
theorem Config.Params.wf_iff (p : Config.Params) : p.wf = true ↔
    (1 ≤ p.tRel ∧ 1 ≤ p.tIdle ∧ 1 ≤ p.tStart) ∧
    (p.tIdle < 2 ^ p.cntW ∧ p.tStart < 2 ^ p.cntW ∧ p.tRel < 2 ^ p.cntW ∧ p.tTimeout + 1 < 2 ^ p.cntW) ∧
    p.tTimeout + 1 < 2 ^ p.lowdurW ∧ (p.ackMin ≤ p.ackMax ∧ p.ackMax < p.tTimeout) ∧
    (p.nBits = 8 * p.nBytes ∧ p.nBits < 2 ^ p.bitidxW) := by
  simp only [Config.Params.wf, Bool.and_eq_true, decide_eq_true_eq, and_assoc]

/-- A record that meets the constraints is accepted, as it is. -/
theorem Config.accept_of_wf {p : Config.Params} (h : p.wf = true) : Config.accept p = some ⟨p, h⟩ :=
  dif_pos h

/-- Acceptance is the check: an accepted configuration carries the proof that its record passed it. -/
theorem Config.accept_iff (p : Config.Params) :
    (∃ c : Config.Accepted, Config.accept p = some c ∧ c.toParams = p) ↔ p.wf = true := by
  constructor
  · rintro ⟨c, -, rfl⟩
    exact c.accepted
  · intro h
    exact ⟨⟨p, h⟩, Config.accept_of_wf h, rfl⟩

/-- Settles O59: acceptance is the check of 00_scope.md R8, and the check is its constraints. -/
theorem configurationIsAcceptedByItsConstraints : Obligations.ConfigurationIsAcceptedByItsConstraints :=
  ⟨fun p => (Config.accept_iff p).trans p.wf_iff, Config.accept_of_wf Config.dpe.accepted⟩

end Sys2Proof

/-! SUPPORT. Proofs of the statements of 10_state.md: all that one step can do, said once over the state
elements; what each kind of move needs to keep the invariants; and the statements themselves. -/

namespace Sys2Proof.Safety

open Sys2Proof.Machine

/-! ## All one step can do -/

/-- What a step leaves of a state, over every outside event (00_scope.md R14). -/
inductive StepMove (s : State) : State → Prop
  /-- An ignored write, a read, or a release of a reset that was not asserted: no state element changes. -/
  | keeps {t : State} : s.rst = false → t.rst = false → sameElements s t → StepMove s t
  /-- An accepted START (45_host_interface.md R200). -/
  | starts {w : BusWord} {v : Byte} {rest : List Event} : s.rst = false → s.st = 0 →
      s.agenda = .host w :: rest → decodeHost w = .start v →
      StepMove s (acceptStart { s with agenda := rest })
  /-- Every state element takes its reset value (70_reset_and_hazards.md R260). -/
  | resets {t : State} : (s.rst = true ∨ ∃ rest, s.agenda = .rst true :: rest) → toReset t = t →
      StepMove s t
  /-- A tick with reset released runs the micro-operation of `st` (42_transaction_fsm.md R120). -/
  | ticks {a v : Level} {es : List Event} {n : Nat} {t : State} : s.rst = false →
      (s.agenda = [] ∨ ∃ a v rest, s.agenda = .tick a v :: rest) →
      EngineMove (takeDraws a v { s with agenda := es, draws := n }) t → StepMove s t

theorem sameElements_refl (s : State) : sameElements s s := by simp [sameElements]

theorem stepMove_of_hostStep {s t : State} {w : BusWord} {rest : List Event} (hag : s.agenda = .host w :: rest)
    (h : hostStep w { s with agenda := rest } = .next t) : StepMove s t := by
  by_cases hr : s.rst = true
  · rcases hostStep_reset (s := { s with agenda := rest }) hr h with ⟨-, rfl⟩ | ⟨-, rfl⟩ <;>
      exact .resets (.inl hr) rfl
  · have hr : s.rst = false := by simpa using hr
    rcases hostStep_cases (s := { s with agenda := rest }) hr h with rfl | ⟨v, rfl⟩ | ⟨hst, rfl, v, hw⟩
    · exact .keeps hr hr (by simp [sameElements])
    · exact .keeps hr hr (by simp [sameElements])
    · exact .starts hr hst hag hw

theorem stepMove_of_rstStep {s t : State} {b : Bool} {rest : List Event} (hag : s.agenda = .rst b :: rest)
    (h : rstStep b { s with agenda := rest } = .next t) : StepMove s t := by
  rcases rstStep_cases h with ⟨-, hr, rfl⟩ | ⟨rfl | hr, rfl⟩
  · exact .keeps hr rfl (by simp [sameElements])
  · exact .resets (.inr ⟨rest, hag⟩) rfl
  · exact .resets (.inl hr) rfl

/-- Every step is one of the moves. -/
theorem step_move {s t : State} (h : step s = .next t) : StepMove s t := by
  rcases step_cases h with ⟨w, rest, hag, h⟩ | ⟨b, rest, hag, h⟩ | ⟨a, v, es, n, hag, h⟩
  · exact stepMove_of_hostStep hag h
  · exact stepMove_of_rstStep hag h
  · by_cases hr : s.rst = true
    · rw [engineStep_reset (s := { s with agenda := es, draws := n }) hr h]
      exact .resets (.inl hr) rfl
    · have hr : s.rst = false := by simpa using hr
      exact .ticks hr hag (engineStep_cases (s := { s with agenda := es, draws := n }) hr h)

/-- A step while reset is asserted leaves the reset values (70_reset_and_hazards.md R260): every other move is
of a machine whose reset is released. -/
theorem toReset_eq_of_step {s t : State} (hr : s.rst = true) (h : step s = .next t) : toReset t = t := by
  cases step_move h with
  | resets _ ht => exact ht
  | keeps hr' => exact absurd hr (by simp [hr'])
  | starts hr' => exact absurd hr (by simp [hr'])
  | ticks hr' => exact absurd hr (by simp [hr'])

/-! ## Reset -/

theorem slotBit_zero (j : Nat) : slotBit Frame.zero j = false := by
  unfold slotBit
  split <;> simp

/-- The reset values meet the whole invariant, whatever the ports and the agenda hold. -/
theorem inv_toReset (s : State) : Inv (toReset s) where
  output := by simp
  low := by simp
  pulledUp := rfl
  counting := by simp
  slotOpen := by simp
  slotsDone := by simp
  busyNotDone := by simp
  noFrame := by simp
  frameIsAsm := by simp
  legalState := by simp
  legalResult := by simp
  noResult := by simp
  sleeping := by simp [sleepTicks]
  countRange := by simp
  counted := by simp
  slotRange := by simp
  lowLatched := by simp
  asmClear := by simp
  slotsClear := by simp
  okChecksum := by simp
  heldInReset := by simp

theorem inv_of_toReset_eq {t : State} (h : toReset t = t) : Inv t := h ▸ inv_toReset t

/-! ## Moves that leave every state element -/

theorem EngineInv.congr {s t : State} (e : sameElements s t) (h : EngineInv s) : EngineInv t := by
  obtain ⟨hst, hdone, hres, hframe, hcnt, hbit, -, hasm, hoe, hout, hpull⟩ := e
  constructor
  · rw [← hoe, ← hst]; exact h.output
  · rw [← hout, ← hst]; exact h.low
  · rw [← hpull]; exact h.pulledUp
  · rw [← hst, ← hcnt]; exact h.counting
  · rw [← hst, ← hbit]; exact h.slotOpen
  · rw [← hst, ← hbit]; exact h.slotsDone
  · rw [busy, ← hst, ← hdone]; exact h.busyNotDone
  · rw [← hdone, ← hres, ← hframe]; exact h.noFrame
  · rw [← hdone, ← hres, ← hframe, ← hasm]; exact h.frameIsAsm

/-- With reset released, the whole invariant speaks of the state elements only. -/
theorem Inv.congr {s t : State} (hr : t.rst = false) (e : sameElements s t) (h : Inv s) : Inv t := by
  have he := h.toEngineInv.congr e
  obtain ⟨hst, hdone, hres, hframe, hcnt, hbit, hlow, hasm, -⟩ := e
  constructor
  · exact he
  · rw [← hst]; exact h.legalState
  · rw [← hres]; exact h.legalResult
  · rw [← hdone, ← hres]; exact h.noResult
  · rw [← hst, ← hcnt]; exact h.sleeping
  · rw [← hcnt]; exact h.countRange
  · rw [← hst, ← hcnt]; exact h.counted
  · rw [← hbit]; exact h.slotRange
  · rw [← hst, ← hlow]; exact h.lowLatched
  · rw [← hst, ← hasm]; exact h.asmClear
  · rw [← hst, ← hbit, ← hasm]; exact h.slotsClear
  · rw [← hdone, ← hres, ← hframe]; exact h.okChecksum
  · simp [hr]

/-! ## The invariants of 10_state.md R40 -/

theorem engineInv_acceptStart {s : State} (h : EngineInv s) (hs : s.st = 0) : EngineInv (acceptStart s) where
  output := by simpa [hs] using h.output
  low := by simpa [hs] using h.low
  pulledUp := h.pulledUp
  counting := by simp
  slotOpen := by simp
  slotsDone := by simp
  busyNotDone := by simp
  noFrame := by simp
  frameIsAsm := by simp

/-- A busy engine has published nothing. -/
theorem EngineInv.busy_clear {s : State} (h : EngineInv s) (hb : s.st ≠ 0) :
    s.done = false ∧ s.frame = Frame.zero :=
  have hd := h.busyNotDone ((busy_iff s).2 hb)
  ⟨hd, h.noFrame (.inl hd)⟩

theorem not_driven_of_five_le {c : StateCode} (h : 5 ≤ c.toNat) : c ≠ 2 ∧ c ≠ 3 ∧ c ≠ 4 := by
  refine ⟨?_, ?_, ?_⟩ <;> rintro rfl <;> simp at h

/-- From ACK_H1 on the pin is an Input at its pulled-up level. -/
theorem EngineInv.input {s : State} (h : EngineInv s) (hs : 5 ≤ s.st.toNat) :
    s.lineOe = false ∧ s.lineOut = true := by
  obtain ⟨h2, h3, h4⟩ := not_driven_of_five_le hs
  exact ⟨Bool.eq_false_iff.2 fun hoe => (h.output.1 hoe).elim h2 (·.elim h3 h4),
    Bool.eq_true_of_not_eq_false fun hout => h3 (h.low.1 hout)⟩

theorem engineInv_setCnt {s : State} {c : Nat} (h : EngineInv s) (hc : measuring s.st = true → c ≤ 200) :
    EngineInv (setCnt c s) where
  output := h.output
  low := h.low
  pulledUp := h.pulledUp
  counting hm := by
    have := hc hm
    simp
    omega
  slotOpen := h.slotOpen
  slotsDone := h.slotsDone
  busyNotDone := h.busyNotDone
  noFrame := h.noFrame
  frameIsAsm := h.frameIsAsm

/-- A completion without a frame to publish (60_exceptions.md R236). -/
theorem engineInv_complete {s : State} {code : BitVec 3} (h : EngineInv s) (hb : s.st ≠ 0) (hc : code ≠ 0) :
    EngineInv (complete code s) where
  output := by simp
  low := by simp
  pulledUp := rfl
  counting := by simp
  slotOpen := by simp
  slotsDone := by simp
  busyNotDone := by simp [busy]
  noFrame _ := (h.busy_clear hb).2
  frameIsAsm hok := absurd hok.2 hc

/-- A completion that publishes the assembly buffer (43_data_phase.md R154) needs nothing of the state. -/
theorem engineInv_complete_publish (s : State) : EngineInv (complete 0 (publish s)) where
  output := by simp
  low := by simp
  pulledUp := rfl
  counting := by simp
  slotOpen := by simp
  slotsDone := by simp
  busyNotDone := by simp [busy]
  noFrame := by simp
  frameIsAsm := by simp

/-- The count at which a state of a running transaction is entered: 1 from ACK_L on, where the sample that ended
the measurement before is counted (41_pulse_timer.md R103, 43_data_phase.md R151), and 0 up to ACK_H1. -/
def entryCount (st : StateCode) : Nat := if 6 ≤ st.toNat then 1 else 0

theorem entryCount_le (st : StateCode) : entryCount st ≤ 1 := by
  unfold entryCount
  split <;> decide

/-- The engine enters `st'` in a transaction that has published nothing. -/
theorem engineInv_advance {u : State} {st' : StateCode} {c : Nat} (hc : c = entryCount st')
    (hclear : u.done = false ∧ u.frame = Frame.zero) (hpull : u.linePull = 1)
    (hoe : u.lineOe = true ↔ st' = 2 ∨ st' = 3 ∨ st' = 4) (hout : u.lineOut = false ↔ st' = 3)
    (hopen : st' = 8 ∨ st' = 9 → u.bitidx.toNat ≤ 39) (hfull : st' = 10 → u.bitidx.toNat = 40) :
    EngineInv (advance st' c u) where
  output := hoe
  low := hout
  pulledUp := hpull
  counting _ := by
    have := entryCount_le st'
    simp
    omega
  slotOpen := hopen
  slotsDone := hfull
  busyNotDone _ := hclear.1
  noFrame _ := hclear.2
  frameIsAsm := by simp [hclear.1]

/-- BIT_H keeps the bound of `bitidx`: below slot 39 the next slot is open, and slot 39 is the last. -/
theorem engineInv_bitHPasses {s : State} (h : EngineInv s) (hs : s.st = 9) (b : Bool) :
    EngineInv (advance (if s.bitidx.toNat = 39 then 10 else 8) 1
      (setBitidx (s.bitidx.toNat + 1) (setAsm (pack s.asm s.bitidx.toNat b) s))) := by
  have hopen : s.bitidx.toNat ≤ 39 := h.slotOpen (.inr hs)
  obtain ⟨hoe, hout⟩ := h.input (by simp [hs])
  have hclear := h.busy_clear (by simp [hs])
  by_cases hlast : s.bitidx.toNat = 39
  · rw [if_pos hlast]
    exact engineInv_advance rfl hclear h.pulledUp (by simp [hoe]) (by simp [hout]) (by simp) (by simp [hlast])
  · rw [if_neg hlast]
    exact engineInv_advance rfl hclear h.pulledUp (by simp [hoe]) (by simp [hout])
      (fun _ => by simp; omega) (by simp)

/-- Every micro-operation keeps the invariants of R40. -/
theorem engineInv_of_move {s t : State} (m : EngineMove s t) (h : EngineInv s) : EngineInv t := by
  cases m with
  | idle => exact h
  | armClaims hs | busIdleEnds hs | startLowEnds hs | releaseEnds hs =>
    exact engineInv_advance rfl (h.busy_clear (by simp [hs])) rfl (by simp) (by simp) (by simp) (by simp)
  | busIdleCounts hs | startLowCounts hs | releaseCounts hs => exact engineInv_setCnt h (by simp [hs])
  | measureCounts _ _ hc => exact engineInv_setCnt h fun _ => hc
  | timerStops hm =>
    exact engineInv_complete h (fun hs => by simp [hs] at hm) (by decide)
  | ackH1Passes hs | ackLPasses hs | ackH2Passes hs =>
    obtain ⟨hoe, hout⟩ := h.input (by simp [hs])
    exact engineInv_advance rfl (h.busy_clear (by simp [hs])) h.pulledUp (by simp [hoe]) (by simp [hout])
      (by simp) (by simp)
  | bitLPasses hs =>
    obtain ⟨hoe, hout⟩ := h.input (by simp [hs])
    exact engineInv_advance rfl (h.busy_clear (by simp [hs])) h.pulledUp (by simp [hoe]) (by simp [hout])
      (fun _ => h.slotOpen (.inl hs)) (by simp)
  | bitHPasses hs => exact engineInv_bitHPasses h hs _
  | armFails hs | ackH1Fails hs | ackLFails hs | ackH2Fails hs | bitLFails hs | bitHFails hs | checkFails hs =>
    exact engineInv_complete h (by simp [hs]) (by decide)
  | checkPublishes => exact engineInv_complete_publish s
  | reserved hs => exact engineInv_complete h (fun h0 => by simp [h0] at hs) (by decide)

/-! ## The whole invariant -/

theorem inv_acceptStart {s : State} (h : EngineInv s) (hr : s.rst = false) (hs : s.st = 0) :
    Inv (acceptStart s) where
  toEngineInv := engineInv_acceptStart h hs
  legalState := by simp
  legalResult := by simp
  noResult := by simp
  sleeping := by simp [sleepTicks]
  countRange := by simp
  counted := by simp
  slotRange := by simp
  lowLatched := by simp
  asmClear := by simp
  slotsClear := by simp
  okChecksum := by simp
  heldInReset := by simp [hr]

/-- A count goes on: within a measurement's bound, and below a sleep's drive time. -/
theorem inv_setCnt_succ {s : State} (h : Inv s) (hr : s.rst = false) (hc : s.cnt.toNat + 1 ≤ 1100)
    (hm : measuring s.st = true → s.cnt.toNat + 1 ≤ 200)
    (hsleep : ∀ n, sleepTicks s.st = some n → s.cnt.toNat + 1 < n) : Inv (setCnt (s.cnt.toNat + 1) s) := by
  have hcnt : (setCnt (s.cnt.toNat + 1) s).cnt.toNat = s.cnt.toNat + 1 := setCnt_toNat s (by omega)
  constructor
  · exact engineInv_setCnt h.toEngineInv hm
  · exact h.legalState
  · exact h.legalResult
  · exact h.noResult
  · rw [hcnt]; exact hsleep
  · rw [hcnt]; simpa using hc
  · rw [hcnt]; omega
  · exact h.slotRange
  · exact h.lowLatched
  · exact h.asmClear
  · exact h.slotsClear
  · exact h.okChecksum
  · simp [hr]

/-- A sleep state counts on: its count was below the drive time and has not reached it. -/
theorem inv_sleep_counts {s : State} {n : Nat} (h : Inv s) (hr : s.rst = false)
    (hs : sleepTicks s.st = some n) (hm : measuring s.st = false) (hn : n ≤ 1100)
    (hc : s.cnt.toNat + 1 ≠ n) : Inv (setCnt (s.cnt.toNat + 1) s) := by
  have hlt : s.cnt.toNat < n := h.sleeping n hs
  refine inv_setCnt_succ h hr (by omega) (by simp [hm]) fun m hsm => ?_
  have : n = m := Option.some.inj (hs.symm.trans hsm)
  omega

theorem sleepTicks_of_measuring : ∀ st : StateCode, measuring st = true → sleepTicks st = none := by decide

/-- A completion with a code that no reserved state raises. -/
theorem inv_complete {u : State} {code : BitVec 3} (he : EngineInv (complete code u)) (hr : u.rst = false)
    (hcode : code.toNat ≤ 3) (hcnt : u.cnt.toNat ≤ 1100) (hslot : u.bitidx.toNat ≤ 40)
    (hok : code = 0 → checksumOk u.frame = true) : Inv (complete code u) where
  toEngineInv := he
  legalState := by simp
  legalResult := hcode
  noResult := by simp
  sleeping := by simp [sleepTicks]
  countRange := by simpa using hcnt
  counted := by simp
  slotRange := hslot
  lowLatched := by simp
  asmClear := by simp [beforeData]
  slotsClear := by simp
  okChecksum h := hok h.2
  heldInReset := by simp [hr]

/-- A sleep is entered at count 0, below its drive time. -/
theorem entryCount_of_sleep (st : StateCode) (n : Nat) (h : sleepTicks st = some n) : entryCount st < n := by
  unfold sleepTicks at h
  split at h
  · next hst => cases hst; cases h; decide
  split at h
  · next hst => cases hst; cases h; decide
  split at h
  · next hst => cases hst; cases h; decide
  · cases h

/-- Every measurement but ACK_H1's is entered with its first sample counted. -/
theorem entryCount_of_measuring : ∀ st : StateCode, measuring st = true → st ≠ stAckH1 →
    entryCount st = 1 := by decide

theorem entryCount_toNat (st : StateCode) : (BitVec.ofNat 16 (entryCount st)).toNat = entryCount st := by
  have := entryCount_le st
  simp
  omega

/-- The engine enters `st'` in a transaction that has no result yet. -/
theorem inv_advance {u : State} {st' : StateCode} {c : Nat} (he : EngineInv (advance st' c u))
    (hc : c = entryCount st') (hr : u.rst = false) (hst : st'.toNat ≤ 10)
    (hd : u.done = false) (hres : u.result = 0) (hslot : u.bitidx.toNat ≤ 40)
    (hlow : st' = 9 → 1 ≤ u.lowdur.toNat ∧ u.lowdur.toNat < 200)
    (hasm : beforeData st' = true → u.asm = Frame.zero)
    (hclear : st' = 8 ∨ st' = 9 → ∀ j, u.bitidx.toNat ≤ j → j < 40 → slotBit u.asm j = false) :
    Inv (advance st' c u) := by
  subst hc
  have hcnt : (advance st' (entryCount st') u).cnt.toNat = entryCount st' := entryCount_toNat st'
  have hle := entryCount_le st'
  constructor
  · exact he
  · exact hst
  · simp [hres]
  · exact fun _ => hres
  · rw [hcnt]; exact entryCount_of_sleep st'
  · rw [hcnt]; simp; omega
  · rw [hcnt]; exact fun hm h5 => (entryCount_of_measuring st' hm h5).ge
  · exact hslot
  · exact hlow
  · exact hasm
  · exact hclear
  · simp [hd]
  · simp [hr]

/-- Changing a byte leaves a slot that lies in another byte, or whose bit the change leaves. -/
theorem slotBit_modifyByte {f : Frame} {k j : Nat} {g : Byte → Byte}
    (h : j / 8 = k → ∀ x, (g x).getLsbD (7 - j % 8) = x.getLsbD (7 - j % 8)) :
    slotBit (modifyByte f k g) j = slotBit f j := by
  unfold modifyByte
  split <;> unfold slotBit <;> split <;> simp_all

/-- Packing a slot leaves every other slot (43_data_phase.md R153). -/
theorem slotBit_pack_other {i j : Nat} (a : Frame) (b : Bool) (hi : i < 40) (hij : j ≠ i) :
    slotBit (pack a i b) j = slotBit a j := by
  rw [pack, if_pos (by simpa using hi)]
  exact slotBit_modifyByte fun _ x => setBit_other x b (by omega) (by omega)

/-- BIT_H fills its slot and leaves the later ones clear. -/
theorem inv_bitHPasses {s : State} (h : Inv s) (hr : s.rst = false) (hs : s.st = 9) (b : Bool) :
    Inv (advance (if s.bitidx.toNat = 39 then 10 else 8) 1
      (setBitidx (s.bitidx.toNat + 1) (setAsm (pack s.asm s.bitidx.toNat b) s))) := by
  have he := engineInv_bitHPasses h.toEngineInv hs b
  have hopen : s.bitidx.toNat ≤ 39 := h.slotOpen (.inr hs)
  have hidx : (BitVec.ofNat 6 (s.bitidx.toNat + 1)).toNat = s.bitidx.toNat + 1 := by simp; omega
  have hd := (h.busy_clear (by simp [hs])).1
  by_cases hlast : s.bitidx.toNat = 39
  · rw [if_pos hlast] at he ⊢
    exact inv_advance he rfl hr (by decide) hd (h.noResult hd) (by simp [hidx]; omega) (by simp)
      (by simp [beforeData]) (by simp)
  · rw [if_neg hlast] at he ⊢
    refine inv_advance he rfl hr (by decide) hd (h.noResult hd) (by simp [hidx]; omega) (by simp)
      (by simp [beforeData]) fun _ j hij hj => ?_
    replace hij : s.bitidx.toNat + 1 ≤ j := hidx ▸ hij
    calc slotBit (pack s.asm s.bitidx.toNat b) j
      _ = slotBit s.asm j := slotBit_pack_other _ b (by omega) (by omega)
      _ = false := h.slotsClear (.inr hs) j (by omega) hj

/-- BIT_L latches a duration that passed, and it fits. -/
theorem inv_bitLPasses {s : State} (h : Inv s) (hr : s.rst = false) (hs : s.st = 8) (hc : s.cnt.toNat < 200)
    (he : EngineInv (advance 9 1 (setLowdur s.cnt.toNat s))) :
    Inv (advance 9 1 (setLowdur s.cnt.toNat s)) := by
  have hd := (h.busy_clear (by simp [hs])).1
  have hone : 1 ≤ s.cnt.toNat := h.counted (by simp [hs]) (by simp [hs])
  exact inv_advance he rfl hr (by decide) hd (h.noResult hd) h.slotRange (fun _ => by simp; omega)
    (by simp [beforeData]) fun _ => h.slotsClear (.inl hs)

/-- Every micro-operation keeps the whole invariant. -/
theorem inv_of_move {s t : State} (m : EngineMove s t) (h : Inv s) (hr : s.rst = false) : Inv t := by
  have he := engineInv_of_move m h.toEngineInv
  have hcnt : s.cnt.toNat ≤ 1100 := by simpa using h.countRange
  have hbusy (hb : s.st ≠ 0) : s.done = false ∧ s.result = 0 :=
    have hd := (h.busy_clear hb).1
    ⟨hd, h.noResult hd⟩
  cases m with
  | idle => exact h
  | armClaims hs | busIdleEnds hs | startLowEnds hs | releaseEnds hs | ackH1Passes hs | ackLPasses hs =>
    obtain ⟨hd, hres⟩ := hbusy (by simp [hs])
    exact inv_advance he rfl hr (by decide) hd hres h.slotRange (by simp)
      (fun _ => h.asmClear (by simp [hs, beforeData])) (by simp)
  | ackH2Passes hs =>
    obtain ⟨hd, hres⟩ := hbusy (by simp [hs])
    have hasm : s.asm = Frame.zero := h.asmClear (by simp [hs, beforeData])
    exact inv_advance he rfl hr (by decide) hd hres (by simp) (by simp) (fun _ => hasm)
      fun _ j _ _ => by rw [setBitidx_asm, hasm, slotBit_zero]
  | bitLPasses hs _ hc => exact inv_bitLPasses h hr hs hc he
  | bitHPasses hs => exact inv_bitHPasses h hr hs _
  | busIdleCounts hs hc | startLowCounts hs hc | releaseCounts hs hc =>
    exact inv_sleep_counts h hr (by simp [hs, sleepTicks]) (by simp [hs]) (by decide) hc
  | measureCounts hm _ hc =>
    exact inv_setCnt_succ h hr (by omega) (fun _ => hc) (by simp [sleepTicks_of_measuring _ hm])
  | armFails | timerStops | ackH1Fails | ackLFails | ackH2Fails | bitLFails | bitHFails | checkFails =>
    exact inv_complete he hr (by decide) hcnt h.slotRange (by simp)
  | checkPublishes _ hok => exact inv_complete he hr (by decide) hcnt h.slotRange fun _ => hok
  | reserved hs => exact absurd h.legalState (by omega)

/-! ## The statements -/

/-- The event taken from the agenda and the draws of a tick are no state elements. -/
theorem sameElements_takeDraws (s : State) (a v : Level) (es : List Event) (n : Nat) :
    sameElements s (takeDraws a v { s with agenda := es, draws := n }) := by simp [sameElements]

/-- Settles O48: each move of a step keeps the invariants of R40. -/
theorem everyStepKeepsTheEngineInvariant : Obligations.EveryStepKeepsTheEngineInvariant := by
  intro s t h hstep
  cases step_move hstep with
  | keeps _ _ e => exact h.congr e
  | starts _ hs => exact engineInv_acceptStart (h.congr (sameElements_refl s)) hs
  | resets _ ht => exact (inv_of_toReset_eq ht).toEngineInv
  | ticks _ _ m => exact engineInv_of_move m (h.congr (sameElements_takeDraws ..))

/-- Settles O49: each move of a step keeps the whole invariant. -/
theorem everyStepKeepsTheWholeInvariant : Obligations.EveryStepKeepsTheWholeInvariant := by
  intro s t h hstep
  cases step_move hstep with
  | keeps _ hr e => exact h.congr hr e
  | starts hr hs => exact inv_acceptStart (h.toEngineInv.congr (sameElements_refl s)) hr hs
  | resets _ ht => exact inv_of_toReset_eq ht
  | ticks hr _ m => exact inv_of_move m (h.congr hr (sameElements_takeDraws ..)) hr

/-- Settles O47: the state after reset holds its own reset values. -/
theorem resetMeetsTheInvariant : Obligations.ResetMeetsTheInvariant :=
  have h : Inv State.reset := inv_of_toReset_eq rfl
  ⟨h.toEngineInv, h⟩

/-- Settles O46: the values of 10_state.md R39, and the registers computed from them. -/
theorem resetValues : Obligations.ResetValues := by
  unfold Obligations.ResetValues
  decide

/-- Settles O9: an empty agenda gives a tick, and a released engine step is the micro-operation of `st`. -/
theorem emptyAgendaTicksWithFreeDraws : Obligations.EmptyAgendaTicksWithFreeDraws := by
  intro s hr hagenda
  rcases step_performs s with ⟨e, rest, hcons, -⟩ | ⟨-, a, v, hstep⟩
  · exact absurd (hagenda.symm.trans hcons) (List.cons_ne_nil e rest).symm
  · exact ⟨a, v, hstep.trans (engineStep_eq hr)⟩

/-! ### DONE -/

/-- A micro-operation leaves DONE, or it takes a busy engine to IDLE with DONE set. -/
theorem done_of_move {s t : State} (m : EngineMove s t) :
    t.done = s.done ∧ (s.st ≠ 0 → t.st ≠ 0) ∨ s.st ≠ 0 ∧ t.st = 0 ∧ t.done = true := by
  cases m with
  | idle hs => exact .inl ⟨rfl, id⟩
  | armClaims hs | busIdleEnds hs | startLowEnds hs | releaseEnds hs | ackH1Passes hs | ackLPasses hs
  | ackH2Passes hs | bitLPasses hs => exact .inl ⟨rfl, fun _ => by simp⟩
  | bitHPasses hs =>
    refine .inl ⟨rfl, fun _ => ?_⟩
    rw [advance_st]
    split <;> decide
  | busIdleCounts | startLowCounts | releaseCounts | measureCounts => exact .inl ⟨rfl, id⟩
  | armFails hs | ackH1Fails hs | ackLFails hs | ackH2Fails hs | bitLFails hs | bitHFails hs
  | checkPublishes hs | checkFails hs => exact .inr ⟨by simp [hs], rfl, rfl⟩
  | timerStops hm => exact .inr ⟨fun hs => by simp [hs] at hm, rfl, rfl⟩
  | reserved hs => exact .inr ⟨fun h0 => by simp [h0] at hs, rfl, rfl⟩

/-- DONE rises only at a tick that completes a transaction. -/
theorem done_rises {s t : State} (m : StepMove s t) (hs : s.done = false) (ht : t.done = true) :
    busy s = true ∧ t.st = 0 ∧ (s.agenda = [] ∨ ∃ a v rest, s.agenda = .tick a v :: rest) := by
  cases m with
  | keeps _ _ e => exact absurd ht (by simp [← e.2.1, hs])
  | starts => exact absurd ht (by simp)
  | resets _ hreset => exact absurd ht (by rw [← hreset]; simp)
  | ticks _ hag m =>
    rcases done_of_move m with ⟨hd, -⟩ | ⟨hb, hidle, -⟩
    · exact absurd ht (by simp [hd, hs])
    · exact ⟨(busy_iff s).2 hb, hidle, hag⟩

/-- DONE falls only by an accepted START or by reset. -/
theorem done_falls {s t : State} (m : StepMove s t) (hs : s.done = true) (ht : t.done = false) :
    (s.st = 0 ∧ t.st = 1 ∧ ∃ v w rest, s.agenda = .host w :: rest ∧ decodeHost w = .start v) ∨
    s.rst = true ∨ ∃ rest, s.agenda = .rst true :: rest := by
  cases m with
  | keeps _ _ e => exact absurd ht (by simp [← e.2.1, hs])
  | starts _ hst hag hw => exact .inl ⟨hst, rfl, _, _, _, hag, hw⟩
  | resets hcause => exact .inr hcause
  | ticks _ _ m =>
    rcases done_of_move m with ⟨hd, -⟩ | ⟨-, -, hd⟩
    · exact absurd ht (by simp [hd, hs])
    · exact absurd ht (by simp [hd])

/-- Settles O41: `irq` is DONE, and DONE rises and falls with the moves of a step as R23 says. -/
theorem doneChangesOnlyByCompletionStartOrReset : Obligations.DoneChangesOnlyByCompletionStartOrReset :=
  ⟨rfl, fun _ _ hstep => ⟨rfl, done_rises (step_move hstep), done_falls (step_move hstep)⟩⟩

/-! ### Reset -/

theorem sameElements_reset_of_toReset_eq {t : State} (h : toReset t = t) : sameElements t State.reset := by
  rw [← h]
  exact ⟨rfl, rfl, rfl, rfl, rfl, rfl, rfl, rfl, rfl, rfl, rfl⟩

/-- No register's contents depend on the ports or on the model's own fields. -/
theorem memRead_toReset (a : BitVec 3) (s : State) : memRead a (toReset s) = memRead a State.reset := by
  unfold memRead
  cases HostReg.ofAddr a <;> rfl

/-- Under reset a read returns the register's reset value (70_reset_and_hazards.md R260). -/
theorem hostStep_read_in_reset {s : State} {w : BusWord} (hr : s.rst = true) (hw : fieldWe w = false) :
    ∃ t, hostStep w s = .next t ∧ t.rdata = memRead (fieldAddr w) State.reset := by
  obtain ⟨t, ht⟩ := hostStep_next w s
  rcases hostStep_reset hr ht with ⟨hw', -⟩ | ⟨-, rfl⟩
  · exact absurd (hw.symm.trans hw') (by decide)
  · exact ⟨_, ht, memRead_toReset ..⟩

/-- A transaction ends only by completion or by reset (42_transaction_fsm.md R132). -/
theorem transaction_ends {s t : State} (m : StepMove s t) (hb : s.st ≠ 0) (ht : t.st = 0) :
    t.done = true ∨ s.rst = true ∨ ∃ rest, s.agenda = .rst true :: rest := by
  cases m with
  | keeps _ _ e => exact absurd (e.1.trans ht) hb
  | starts _ hs => exact absurd hs hb
  | resets hcause => exact .inr hcause
  | ticks _ _ m =>
    rcases done_of_move m with ⟨-, hstay⟩ | ⟨-, -, hd⟩
    · exact absurd ht (hstay hb)
    · exact .inl hd

/-- Settles O45: asserting `rst` is one event, and the other clauses are the moves of a step. -/
theorem resetTakesEffectAtOnceAndHolds : Obligations.ResetTakesEffectAtOnceAndHolds := by
  refine ⟨fun s rest hagenda => ?_, fun s t hr hstep => ?_, fun s w hr hw => ?_, fun s t hb hstep => ?_⟩
  · exact step_of_agenda_cons hagenda
  · exact sameElements_reset_of_toReset_eq (toReset_eq_of_step hr hstep)
  · exact hostStep_read_in_reset hr hw
  · exact transaction_ends (step_move hstep) ((busy_iff s).1 hb)

end Sys2Proof.Safety

/-! SUPPORT. Proofs of the statements of 20_memory.md: which writes have an effect, and what a read leaves. -/

namespace Sys2Proof.Machine

/-! ## Writes (20_memory.md R59) -/

theorem busy_eq_false_iff (s : State) : busy s = false ↔ s.st = 0 := by
  rw [Bool.eq_false_iff, Ne, busy_iff, not_not]

/-- A write that is not a START while `BUSY = 0` changes nothing: the other case of a write is that START. -/
theorem memWrite_of_not_idle_start {a : BitVec 3} {v : Byte} {s : State}
    (h : ¬(a = 0 ∧ v.getLsbD 0 = true ∧ busy s = false)) : memWrite a v s = s := by
  rcases memWrite_cases a v s with hkept | ⟨hctrl, hstart, hidle, -⟩
  · exact hkept
  · exact absurd ⟨(ofAddr_eq_ctrl a).1 hctrl, hstart, (busy_eq_false_iff s).2 hidle⟩ h

/-- A busy engine ignores every write (45_host_interface.md R211). -/
theorem memWrite_of_busy (a : BitVec 3) (v : Byte) {s : State} (hb : busy s = true) : memWrite a v s = s :=
  memWrite_of_not_idle_start fun ⟨_, _, hidle⟩ => by simp [hb] at hidle

/-- A write to CTRL with bit 0 set, while `BUSY = 0`, is accepted (45_host_interface.md R200). -/
theorem memWrite_idle_start {v : Byte} {s : State} (hv : v.getLsbD 0 = true) (hidle : busy s = false) :
    memWrite 0 v s = acceptStart s :=
  calc memWrite 0 v s
    _ = startOp s := if_pos hv
    _ = acceptStart s := if_pos ((busy_eq_false_iff s).1 hidle)

theorem busy_acceptStart (s : State) : busy (acceptStart s) = true := rfl

/-- Settles O14: a write word is `MemWrite`, which changes nothing but at a START in IDLE; that START leaves
the engine busy, and a busy engine ignores every write. -/
theorem onlyAnIdleStartWrites : Obligations.OnlyAnIdleStartWrites := by
  refine ⟨fun w s hw hne => ?_, fun w s hw haddr hbit hidle => ⟨acceptStart s, ?_, busy_acceptStart s, ?_⟩⟩
  · rw [← fieldWdata_bit0] at hne
    exact (exec_write s hw).trans (congrArg _ (memWrite_of_not_idle_start hne))
  · rw [← fieldWdata_bit0] at hbit
    rw [exec_write s hw, show fieldAddr w = 0 from haddr, memWrite_idle_start hbit hidle]
  · rw [exec_write _ hw, memWrite_of_busy _ _ (busy_acceptStart s)]

/-! ## Reads (20_memory.md R58) -/

/-- No address of the register space shows what the latest read returned. -/
@[simp] theorem memRead_setRdata (a : BitVec 3) (v : Byte) (s : State) :
    memRead a (setRdata v s) = memRead a s := regValue_setRdata ..

/-- Returning a second value leaves nothing of the first. -/
@[simp] theorem setRdata_setRdata (u v : Byte) (s : State) : setRdata u (setRdata v s) = setRdata u s := rfl

/-- Settles O20: a read word is `MemRead`, and setting `rdata` moves no register. -/
theorem readsHaveNoSideEffect : Obligations.ReadsHaveNoSideEffect := fun w s hw =>
  ⟨setRdata (memRead (fieldAddr w) s) s, exec_read s hw, rfl, fun a => memRead_setRdata a _ s, by
    rw [exec_read _ hw, memRead_setRdata, setRdata_setRdata]⟩

end Sys2Proof.Machine

/-! SUPPORT. Proofs of the statements of 30_encoding.md: encoding and decoding undo each other, over codes and
over bytes; the rows of the opcode table; and the word that runs next. -/

namespace Sys2Proof

/-! ## A write to CTRL (R72) -/

theorem decodeWrite_start {v : Byte} (hv : v.getLsbD 0 = true) : decodeWrite v .ctrl = .start v := if_pos hv

theorem decodeWrite_wrCtrlNop {v : Byte} (hv : v.getLsbD 0 = false) : decodeWrite v .ctrl = .wrCtrlNop v := by
  rw [decodeWrite, hv, if_neg Bool.false_ne_true]

/-! ## Encoding, then decoding -/

/-- The operand bits that well-formedness fixes are those the decoder reads to tell two rows apart. -/
theorem decode_encode {i : Instr} (h : i.wf = true) : decode (encode i) = i := by
  cases i with
  | start v => exact (decodeHost_busWord true .ctrl v).trans (decodeWrite_start h)
  | wrCtrlNop v =>
    exact (decodeHost_busWord true .ctrl v).trans (decodeWrite_wrCtrlNop (by simpa [Instr.wf] using h))
  | wrStatus v | wrFrame0 v | wrFrame1 v | wrFrame2 v | wrFrame3 v | wrFrame4 v | wrState v =>
    exact decodeHost_busWord true _ v
  | rdCtrl v | rdStatus v | rdFrame0 v | rdFrame1 v | rdFrame2 v | rdFrame3 v | rdFrame4 v | rdState v =>
    exact decodeHost_busWord false _ v
  | idle | arm | busIdle | startLow | release | ackH1 | ackL | ackH2 | bitL | bitH | check
  | reserved11 => rfl
  | reserved1215 c =>
    have key : ∀ c : StateCode, 12 ≤ c.toNat → decodeState c = .reserved1215 c := by decide
    exact key c (of_decide_eq_true h)

/-- The bytes of a code are read back as that code (log entry 12). -/
theorem codeOfBytes_bytesOfCode (c : Code) : codeOfBytes (bytesOfCode c) = .ok c := by
  cases c with
  | state c =>
    have hlt : (c.zeroExtend 8).toNat < 16 := by have := c.isLt; simp; omega
    have hback : (c.zeroExtend 8).extractLsb' 0 4 = c := by
      apply BitVec.eq_of_toNat_eq; have := c.isLt; simp; omega
    simp only [bytesOfCode, codeOfBytes, if_pos hlt, hback]
  | host w =>
    have hw : w.toNat < 4096 := w.isLt
    have hlt : ((w.extractLsb' 8 4).zeroExtend 8).toNat < 16 := by rw [highByte_toNat]; omega
    have hback : ((w.extractLsb' 8 4).zeroExtend 8).extractLsb' 0 4 ++ w.extractLsb' 0 8 = w := by
      apply BitVec.eq_of_toNat_eq
      rw [hostBytes_toNat, highByte_toNat, lowByte_toNat]
      omega
    simp only [bytesOfCode, codeOfBytes, if_pos hlt, hback]

/-- Settles O1: the bytes of a code are read back as that code, and the code decodes to its instruction. -/
theorem encodedInstructionDecodesToItself : Obligations.EncodedInstructionDecodesToItself := by
  intro i hwf
  simp only [decodeBytes, encodeBytes, codeOfBytes_bytesOfCode, decode_encode hwf]

/-! ## Decoding, then encoding -/

theorem encode_decodeWrite (v : Byte) (r : HostReg) : encode (decodeWrite v r) = .host (busWord true r v) := by
  cases r with
  | ctrl =>
    cases hv : v.getLsbD 0 with
    | true => rw [decodeWrite_start hv, encode]
    | false => rw [decodeWrite_wrCtrlNop hv, encode]
  | status | frame0 | frame1 | frame2 | frame3 | frame4 | state => rfl

theorem encode_decodeRead (v : Byte) (r : HostReg) : encode (decodeRead v r) = .host (busWord false r v) := by
  cases r <;> rfl

theorem wf_decodeWrite (v : Byte) (r : HostReg) : (decodeWrite v r).wf = true := by
  cases r with
  | ctrl =>
    cases hv : v.getLsbD 0 with
    | true => rw [decodeWrite_start hv, Instr.wf, hv]
    | false => rw [decodeWrite_wrCtrlNop hv, Instr.wf, hv, Bool.not_false]
  | status | frame0 | frame1 | frame2 | frame3 | frame4 | state => rfl

theorem wf_decodeRead (v : Byte) (r : HostReg) : (decodeRead v r).wf = true := by
  cases r <;> rfl

/-- Every code is the encoding of what it decodes to. -/
theorem encode_decode (c : Code) : encode (decode c) = c := by
  cases c with
  | state c =>
    have key : ∀ c : StateCode, encode (decodeState c) = .state c := by decide
    exact key c
  | host w =>
    refine forall_busWord (P := fun w => encode (decodeHost w) = .host w) (fun we r v => ?_) w
    rw [decodeHost_busWord]
    cases we with
    | true => exact encode_decodeWrite v r
    | false => exact encode_decodeRead v r

/-- Both decodes answer well-formed instructions only. -/
theorem wf_decode (c : Code) : (decode c).wf = true := by
  cases c with
  | state c =>
    have key : ∀ c : StateCode, (decodeState c).wf = true := by decide
    exact key c
  | host w =>
    show (decodeHost w).wf = true
    unfold decodeHost
    split
    · exact wf_decodeWrite _ _
    · exact wf_decodeRead _ _

/-- Bytes are read as a code only where they are that code's bytes (log entry 12). -/
theorem bytesOfCode_of_codeOfBytes {bs : List Byte} {c : Code} (h : codeOfBytes bs = .ok c) :
    bytesOfCode c = bs := by
  match bs, h with
  | [b], h =>
    by_cases hb : b.toNat < 16
    · simp only [codeOfBytes, if_pos hb, Except.ok.injEq] at h
      have hback : (b.extractLsb' 0 4).zeroExtend 8 = b := by
        apply BitVec.eq_of_toNat_eq; simp; omega
      rw [← h, bytesOfCode, hback]
    · simp [codeOfBytes, hb] at h
  | [lo, hi], h =>
    by_cases hhi : hi.toNat < 16
    · simp only [codeOfBytes, if_pos hhi, Except.ok.injEq] at h
      have hlo := lo.isLt
      have hlow : (hi.extractLsb' 0 4 ++ lo).extractLsb' 0 8 = lo := by
        apply BitVec.eq_of_toNat_eq
        rw [lowByte_toNat, hostBytes_toNat]
        omega
      have hhigh : ((hi.extractLsb' 0 4 ++ lo).extractLsb' 8 4).zeroExtend 8 = hi := by
        apply BitVec.eq_of_toNat_eq
        rw [highByte_toNat, hostBytes_toNat]
        omega
      rw [← h, bytesOfCode, hlow, hhigh]
    · simp [codeOfBytes, hhi] at h

/-- Bytes that decode are read as a code, and decode as that code does. -/
theorem exists_code_of_decodeBytes {bs : List Byte} {i : Instr} (h : decodeBytes bs = .ok i) :
    ∃ c, codeOfBytes bs = .ok c ∧ decode c = i := by
  unfold decodeBytes at h
  split at h
  · next c hc => exact ⟨c, hc, Except.ok.inj h⟩
  · cases h

/-- Settles O2: the bytes are a code's, and that code is the encoding of what it decodes to. -/
theorem decodedBytesAreTheEncoding : Obligations.DecodedBytesAreTheEncoding := by
  intro bs i h
  obtain ⟨c, hc, rfl⟩ := exists_code_of_decodeBytes h
  refine ⟨?_, wf_decode c⟩
  rw [encodeBytes, encode_decode, bytesOfCode_of_codeOfBytes hc]

/-! ## The fields of a bus word (R72) -/

theorem decodeHost_write {w : BusWord} (r : HostReg) (hwe : fieldWe w = true) (haddr : fieldAddr w = r.addr) :
    decodeHost w = decodeWrite (fieldWdata w) r := by
  rw [decodeHost, if_pos hwe, haddr, ofAddr_addr]

theorem decodeHost_read {w : BusWord} (r : HostReg) (hwe : fieldWe w = false) (haddr : fieldAddr w = r.addr) :
    decodeHost w = decodeRead (fieldWdata w) r := by
  rw [decodeHost, hwe, if_neg Bool.false_ne_true, haddr, ofAddr_addr]

theorem decodeHost_start {w : BusWord} (hwe : fieldWe w = true) (haddr : fieldAddr w = HostReg.addr .ctrl)
    (hbit : w.getLsbD 0 = true) : decodeHost w = .start (fieldWdata w) := by
  rw [decodeHost_write .ctrl hwe haddr, decodeWrite_start ((Machine.fieldWdata_bit0 w).trans hbit)]

theorem decodeHost_wrCtrlNop {w : BusWord} (hwe : fieldWe w = true)
    (haddr : fieldAddr w = HostReg.addr .ctrl) (hbit : w.getLsbD 0 = false) :
    decodeHost w = .wrCtrlNop (fieldWdata w) := by
  rw [decodeHost_write .ctrl hwe haddr, decodeWrite_wrCtrlNop ((Machine.fieldWdata_bit0 w).trans hbit)]

/-- Settles O3: the decoder picks a write or a read by `we`, the register by `addr`, and START by `wdata[0]`. -/
theorem busWordDecodesByItsFields : Obligations.BusWordDecodesByItsFields := by
  rintro w v rfl
  exact ⟨decodeHost_start, decodeHost_wrCtrlNop,
    decodeHost_write .status, decodeHost_write .frame0, decodeHost_write .frame1,
    decodeHost_write .frame2, decodeHost_write .frame3, decodeHost_write .frame4, decodeHost_write .state,
    decodeHost_read .ctrl, decodeHost_read .status, decodeHost_read .frame0, decodeHost_read .frame1,
    decodeHost_read .frame2, decodeHost_read .frame3, decodeHost_read .frame4, decodeHost_read .state⟩

/-- Settles O5: the table of R73, read off the decoder. -/
theorem stateCodeNamesItsOperation : Obligations.StateCodeNamesItsOperation := by
  unfold Obligations.StateCodeNamesItsOperation
  decide

/-- Settles O6: the words of R70 and R73, run through the decoder. -/
theorem sampleWordsDecode : Obligations.SampleWordsDecode := by
  unfold Obligations.SampleWordsDecode
  decide

/-! ## The opcode table -/

/-- The row of a decoded bus word holds the word's own `we`, `addr` and, in CTRL, `wdata[0]`. -/
theorem admits_decodeHost (w : BusWord) : (rowOf (decodeHost w)).admits (.host w) = true := by
  refine forall_busWord (P := fun w => (rowOf (decodeHost w)).admits (.host w) = true) (fun we r v => ?_) w
  rw [decodeHost_busWord]
  cases we with
  | false => cases r <;> exact Laws.admits_host false _ v rfl
  | true =>
    cases r with
    | ctrl =>
      cases hv : v.getLsbD 0 with
      | true => exact decodeWrite_start hv ▸ Laws.admits_ctrl v (by rw [hv]; rfl)
      | false => exact decodeWrite_wrCtrlNop hv ▸ Laws.admits_ctrl v (by rw [hv]; rfl)
    | status | frame0 | frame1 | frame2 | frame3 | frame4 | state => exact Laws.admits_host true _ v rfl

theorem admits_decodeState : ∀ c : StateCode, (rowOf (decodeState c)).admits (.state c) = true := by decide

/-- The row of the decoded instruction admits the bits: no row is missing. -/
theorem admits_decode (c : Code) : (rowOf (decode c)).admits c = true := by
  cases c with
  | host w => exact admits_decodeHost w
  | state c => exact admits_decodeState c

theorem admits_host_iff (r : Row) (w : BusWord) :
    r.admits (.host w) = true ↔ r.format = .host ∧ w.toNat &&& r.mask = r.pattern := by
  simp [Row.admits]

theorem admits_state_iff (r : Row) (c : StateCode) :
    r.admits (.state c) = true ↔ r.format = .state ∧ c.toNat &&& r.mask = r.pattern := by
  simp [Row.admits]

/-- The number of a word's high four bits is its `we` and its `addr`. -/
theorem fields_of_high {w : BusWord} {we : Bool} {r : HostReg}
    (h : w.toNat / 256 = we.toNat * 8 + r.addr.toNat) : fieldWe w = we ∧ fieldAddr w = r.addr := by
  have hr := r.addr.isLt
  constructor
  · rw [fieldWe_eq]
    cases we <;> simp at h ⊢ <;> omega
  · apply BitVec.eq_of_toNat_eq
    rw [fieldAddr_toNat]
    omega

/-- What a row that fixes `we` and `addr` admits has the row of the operation on those two fields. -/
theorem rowOf_of_mask_F00 {w : BusWord} (we : Bool) (r : HostReg) {m : String}
    (h : Row.admits ⟨m, .host, we.toNat * 2048 + r.addr.toNat * 256, 0xF00⟩ (.host w) = true) :
    rowOf (decodeHost w) =
      rowOf (if we then decodeWrite (fieldWdata w) r else decodeRead (fieldWdata w) r) := by
  have hmask : w.toNat &&& 0xF00 = we.toNat * 2048 + r.addr.toNat * 256 := ((admits_host_iff ..).1 h).2
  rw [Laws.mask_F00 _ w.isLt] at hmask
  obtain ⟨hwe, haddr⟩ := fields_of_high (w := w) (we := we) (r := r) (by omega)
  cases we with
  | true => exact congrArg rowOf (decodeHost_write r hwe haddr)
  | false => exact congrArg rowOf (decodeHost_read r hwe haddr)

/-- What a row of CTRL writes admits has the row that `wdata[0]` tells. -/
theorem rowOf_of_mask_F01 {w : BusWord} (b : Bool) {m : String}
    (h : Row.admits ⟨m, .host, 2048 + b.toNat, 0xF01⟩ (.host w) = true) :
    rowOf (decodeHost w) = rowOf (if b then .start (fieldWdata w) else .wrCtrlNop (fieldWdata w)) := by
  have hmask : w.toNat &&& 0xF01 = 2048 + b.toNat := ((admits_host_iff ..).1 h).2
  have hb := b.toNat_lt
  rw [Laws.mask_F01 _ w.isLt] at hmask
  obtain ⟨hwe, haddr⟩ := fields_of_high (w := w) (we := true) (r := .ctrl)
    (show w.toNat / 256 = 8 + 0 by omega)
  have hbit : w.getLsbD 0 = b := by
    rw [BitVec.getLsbD, Nat.testBit_zero, show w.toNat % 2 = b.toNat by omega]
    cases b <;> rfl
  cases b with
  | true => exact congrArg rowOf (decodeHost_start hwe haddr hbit)
  | false => exact congrArg rowOf (decodeHost_wrCtrlNop hwe haddr hbit)

/-- A row of the host format that admits a word is the row of the word's operation. -/
theorem rowOf_decodeHost (w : BusWord) : ∀ i : Instr, (rowOf i).admits (.host w) = true →
    rowOf (decodeHost w) = rowOf i
  | .start _, h => rowOf_of_mask_F01 true h
  | .wrCtrlNop _, h => rowOf_of_mask_F01 false h
  | .wrStatus _, h => rowOf_of_mask_F00 true .status h
  | .wrFrame0 _, h => rowOf_of_mask_F00 true .frame0 h
  | .wrFrame1 _, h => rowOf_of_mask_F00 true .frame1 h
  | .wrFrame2 _, h => rowOf_of_mask_F00 true .frame2 h
  | .wrFrame3 _, h => rowOf_of_mask_F00 true .frame3 h
  | .wrFrame4 _, h => rowOf_of_mask_F00 true .frame4 h
  | .wrState _, h => rowOf_of_mask_F00 true .state h
  | .rdCtrl _, h => rowOf_of_mask_F00 false .ctrl h
  | .rdStatus _, h => rowOf_of_mask_F00 false .status h
  | .rdFrame0 _, h => rowOf_of_mask_F00 false .frame0 h
  | .rdFrame1 _, h => rowOf_of_mask_F00 false .frame1 h
  | .rdFrame2 _, h => rowOf_of_mask_F00 false .frame2 h
  | .rdFrame3 _, h => rowOf_of_mask_F00 false .frame3 h
  | .rdFrame4 _, h => rowOf_of_mask_F00 false .frame4 h
  | .rdState _, h => rowOf_of_mask_F00 false .state h
  | .idle, h | .arm, h | .busIdle, h | .startLow, h | .release, h | .ackH1, h | .ackL, h | .ackH2, h
  | .bitL, h | .bitH, h | .check, h | .reserved11, h | .reserved1215 _, h =>
    absurd ((admits_host_iff ..).1 h).1 Format.noConfusion

/-- A row of the state format that admits a code is the row of the code's operation. -/
theorem rowOf_decodeState (c : StateCode) (i : Instr) (h : (rowOf i).admits (.state c) = true) :
    rowOf (decodeState c) = rowOf i := by
  cases i with
  | idle | arm | busIdle | startLow | release | ackH1 | ackL | ackH2 | bitL | bitH | check | reserved11 =>
    revert c
    decide
  | reserved1215 _ =>
    have key : ∀ c : StateCode, (rowOf (.reserved1215 12)).admits (.state c) = true →
      rowOf (decodeState c) = rowOf (.reserved1215 12) := by decide
    exact key c h
  | _ => exact absurd ((admits_state_iff ..).1 h).1 Format.noConfusion

/-- Settles O4: the row of the decoded instruction admits the bits, and no other row of either format does. -/
theorem everyCodeHasExactlyOneRow : Obligations.EveryCodeHasExactlyOneRow := by
  refine fun c => ⟨admits_decode c, fun i h => ?_⟩
  cases c with
  | host w => exact (rowOf_decodeHost w i h).symm
  | state c => exact (rowOf_decodeState c i h).symm

end Sys2Proof

namespace Sys2Proof.Machine

/-! ## The next step -/

/-- Settles O11: a step performs one event, and every event answers a next state. -/
theorem machineNeverStops : Obligations.MachineNeverStops := by
  intro s
  rcases step_performs s with ⟨e, rest, -, hstep⟩ | ⟨-, a, v, hstep⟩
  · rw [hstep]
    exact perform_next e _
  · rw [hstep]
    exact engineStep_next a v _

/-- A placed bus word is the next host access (log entry 11). -/
theorem withFetchWord_host (s : State) (w : BusWord) :
    s.withFetchWord 16 w.toNat = { s with rst := false, agenda := .host w :: s.agenda } := by
  rw [State.withFetchWord, if_neg (by decide), BitVec.ofNat_toNat, BitVec.setWidth_eq]

/-- A placed state code is in `st`, and the next event is a tick at which the ports keep their levels (log
entry 11). -/
theorem withFetchWord_state (s : State) (c : StateCode) :
    s.withFetchWord 8 c.toNat =
      { s with st := c, rst := false, agenda := .tick s.lineIn s.lineAvail :: s.agenda } := by
  rw [State.withFetchWord, if_pos le_rfl, BitVec.ofNat_toNat, BitVec.setWidth_eq]

/-- Settles O10: the placed event is the next one, and it runs with reset released. -/
theorem fetchedWordIsWhatRuns : Obligations.FetchedWordIsWhatRuns := by
  constructor
  · intro s w
    rw [withFetchWord_host]
    exact hostAccessRunsTheDecodedOperation _ w s.agenda rfl rfl
  · intro s c
    rw [withFetchWord_state]
    exact tickRunsTheMicroOperationOfTheState _ s.lineIn s.lineAvail s.agenda rfl rfl

/-! ## Host program lines (R84, R85) -/

/-- Settles O58: each line is the words of its accesses, and the three texts are read character by character. -/
theorem hostLinesAssemble : Obligations.HostLinesAssemble :=
  ⟨fun _ _ => ⟨rfl, rfl⟩, rfl, rfl, rfl, rfl, rfl⟩

end Sys2Proof.Machine

/-! SUPPORT. Proofs of the statements of 41_pulse_timer.md: one step of the timer, a whole measurement over a
list of samples, and the measuring states of the engine. -/

namespace Sys2Proof.Machine

/-! ## The timer over a list of samples (R101, R102) -/

/-- Settles O34: the three branches of the timer. -/
theorem pulseTimerStep : Obligations.PulseTimerStep := by
  intro v s c
  refine ⟨pt_level_changed c, ?_, ?_⟩
  · rintro rfl hstop
    exact pt_timer_stops s hstop
  · rintro rfl hcount
    exact pt_counts s hcount

theorem duration_level_changed {v s : Level} (c : Nat) (rest : List Level) (h : s ≠ v) :
    duration v c (s :: rest) = some (c, rest) := by
  rw [duration, pt_level_changed c h]

theorem duration_timer_stops {c : Nat} (v : Level) (rest : List Level) (h : 200 < c + 1) :
    duration v c (v :: rest) = some (c + 1, rest) := by
  rw [duration, pt_timer_stops v h]

theorem duration_counts {c : Nat} (v : Level) (rest : List Level) (h : c + 1 ≤ 200) :
    duration v c (v :: rest) = duration v (c + 1) rest := by
  rw [duration, pt_counts v h]

/-- A run of samples at the target adds its length to the count, up to 200. -/
theorem duration_replicate {c n : Nat} (v : Level) (rest : List Level) (h : c + n ≤ 200) :
    duration v c (List.replicate n v ++ rest) = duration v (c + n) rest := by
  induction n generalizing c with
  | zero => rfl
  | succ n ih =>
    rw [List.replicate_succ, List.cons_append, duration_counts v _ (by omega), ih (by omega),
      Nat.add_right_comm, Nat.add_assoc]

/-- Settles O35: the run of samples at the target is counted, and then a level change ends the measurement at
that count, or one more sample at the target ends it at 201. -/
theorem measurementDurationIsTheRunLength : Obligations.MeasurementDurationIsTheRunLength := by
  constructor
  · intro v c0 n rest h
    rw [duration_replicate v _ h, duration_level_changed _ _ (Bool.not_ne_self v)]
  · intro v c0 n rest hc0 hn
    obtain ⟨m, rfl⟩ := Nat.exists_eq_succ_of_ne_zero (n := n) (by omega)
    have hm : c0 + m = 200 := by omega
    rw [List.replicate_succ', List.append_assoc, duration_replicate v _ hm.le, hm]
    exact duration_timer_stops v rest (by decide)

/-! ## The measuring states -/

/-- Settles O36: RELEASE enters ACK_H1 at count 0; the ends of measurements enter the other measuring states at
count 1, with the sample that ended the measurement before; every other move stays or leaves the measuring
states. -/
theorem measurementBeginsWithItsFirstSample : Obligations.MeasurementBeginsWithItsFirstSample := by
  intro s s' a v hr h hm hne
  cases engineStep_cases hr h with
  | idle | busIdleCounts | startLowCounts | releaseCounts | measureCounts => exact absurd rfl hne
  | armClaims | armFails | busIdleEnds | startLowEnds | timerStops | ackH1Fails | ackLFails | ackH2Fails
  | bitLFails | bitHFails | checkPublishes | checkFails | reserved => simp at hm
  | releaseEnds hs => exact ⟨fun _ => ⟨hs, rfl⟩, fun h5 => absurd rfl h5⟩
  | ackH1Passes hs hl | ackLPasses hs hl | ackH2Passes hs hl | bitLPasses hs hl =>
    simp only [takeDraws_st] at hs
    exact ⟨by simp, fun _ => ⟨by simp [hs], rfl, hl⟩⟩
  | bitHPasses hs hl =>
    simp only [takeDraws_st] at hs
    by_cases hlast : s.bitidx.toNat = 39
    · simp [hlast] at hm
    · exact ⟨by simp [hlast], fun _ => ⟨by simp [hs], rfl, by simpa [hlast] using hl⟩⟩

/-- A tick that stays in a measuring state is a count of the timer: every end of a measurement changes `st`. -/
theorem tick_stays_measuring {s s' : State} {a v : Level} (hr : s.rst = false) (hm : measuring s.st = true)
    (h : engineStep a v s = .next s') (hst : s'.st = s.st) :
    s' = setCnt (s.cnt.toNat + 1) (takeDraws a v s) ∧ s.cnt.toNat + 1 ≤ 200 := by
  cases engineStep_cases hr h with
  | measureCounts _ _ hc => exact ⟨rfl, hc⟩
  | idle hs | armClaims hs | armFails hs | busIdleCounts hs | busIdleEnds hs | startLowCounts hs
  | startLowEnds hs | releaseCounts hs | releaseEnds hs | checkPublishes hs | checkFails hs =>
    rw [takeDraws_st] at hs
    simp [hs] at hm
  | ackH1Passes hs | ackLPasses hs | ackH2Passes hs | bitLPasses hs => exact absurd (hst.trans hs) (by simp)
  | timerStops | ackH1Fails | ackLFails | ackH2Fails | bitLFails | bitHFails | reserved =>
    rw [← hst] at hm
    simp at hm
  | bitHPasses hs =>
    have h9 := hst.trans hs
    by_cases hlast : s.bitidx.toNat = 39 <;> simp [hlast] at h9

/-- Settles O37: a tick that stays is a count of the timer. -/
theorem measuringChangesOnlyTheCount : Obligations.MeasuringChangesOnlyTheCount := by
  intro s s' a v hr hm h hst
  obtain ⟨rfl, hc⟩ := tick_stays_measuring hr hm h hst
  exact ⟨setCnt_succ (takeDraws a v s), by rw [setCnt_toNat _ (by omega)]; exact hc⟩

/-- Settles O38, by induction on the draws: each sample at the target is counted while the count stays at most
200; the next one completes with TIMEOUT, and the ticks after it find the engine in IDLE. -/
theorem stuckLineTimesOut : Obligations.StuckLineTimesOut := by
  intro s draws hr hm hc
  induction draws generalizing s with
  | nil => exact ⟨s, rfl, fun _ => ⟨rfl, rfl⟩, fun h => absurd hc (Nat.not_le.2 h)⟩
  | cons d ds ih =>
    have htick := perform_tick_target d hr hm
    rw [List.length_cons, List.replicate_succ, List.zip_cons_cons, ticks_cons]
    by_cases hcount : s.cnt.toNat + 1 ≤ 200
    · rw [if_pos hcount] at htick
      have hcnt := setCnt_toNat (takeDraws (targetLevel s.st) d s) (c := s.cnt.toNat + 1) (by omega)
      obtain ⟨t, hrun, hgoes, hends⟩ :=
        ih (setCnt (s.cnt.toNat + 1) (takeDraws (targetLevel s.st) d s)) hr hm (hcnt.trans_le hcount)
      rw [hcnt, Nat.add_right_comm, Nat.add_assoc] at hgoes hends
      exact ⟨t, (runEvents_cons_next _ htick).trans hrun, hgoes, hends⟩
    · rw [if_neg hcount] at htick
      obtain ⟨t, hrun, ht⟩ := run_idle ((List.replicate ds.length (targetLevel s.st)).zip ds)
        (s := complete 1 (takeDraws (targetLevel s.st) d s)) hr rfl
      refine ⟨t, (runEvents_cons_next _ htick).trans hrun, fun h => ?_, fun _ => ?_⟩
      · omega
      · rw [ht]
        exact ⟨rfl, rfl, rfl⟩

end Sys2Proof.Machine

/-! SUPPORT. Proofs of the statements of 42_transaction_fsm.md: each micro-operation of steps 1 to 6, the fixed
sleeps, the order of the states, and whole transactions from an accepted START. -/

namespace Sys2Proof.Machine

/-! ## The rules at the end of a measurement -/

theorem endAckH1_passes {d : Nat} (s : State) (h : d < 200) : endAckH1 d s = advance 6 1 s :=
  if_neg (by rw [timedOut_iff]; omega)

theorem endAckH1_fails {d : Nat} (s : State) (h : 200 ≤ d) : endAckH1 d s = complete 1 s :=
  if_pos ((timedOut_iff d).2 h)

theorem endAckL_passes {d : Nat} (s : State) (hmin : 70 ≤ d) (hmax : d ≤ 90) : endAckL d s = advance 7 1 s :=
  if_pos ((inAckWindow_iff d).2 ⟨hmin, hmax⟩)

theorem endAckL_fails {d : Nat} (s : State) (h : d < 70 ∨ 90 < d) : endAckL d s = complete 1 s :=
  if_neg (by rw [inAckWindow_iff]; omega)

theorem endAckH2_passes {d : Nat} (s : State) (hmin : 70 ≤ d) (hmax : d ≤ 90) :
    endAckH2 d s = advance 8 1 (setBitidx 0 s) :=
  if_pos ((inAckWindow_iff d).2 ⟨hmin, hmax⟩)

theorem endAckH2_fails {d : Nat} (s : State) (h : d < 70 ∨ 90 < d) : endAckH2 d s = complete 1 s :=
  if_neg (by rw [inAckWindow_iff]; omega)

theorem endBitL_passes {d : Nat} (s : State) (h : d < 200) : endBitL d s = advance 9 1 (setLowdur d s) :=
  if_neg (by rw [timedOut_iff]; omega)

theorem endBitL_fails {d : Nat} (s : State) (h : 200 ≤ d) : endBitL d s = complete 1 s :=
  if_pos ((timedOut_iff d).2 h)

theorem endBitH_passes {d : Nat} (s : State) (h : d < 200) :
    endBitH d s = advance (if s.bitidx.toNat = 39 then 10 else 8) 1 (setBitidx (s.bitidx.toNat + 1)
      (setAsm (pack s.asm s.bitidx.toNat (bitDecide s.lowdur.toNat d)) s)) :=
  if_neg (by rw [timedOut_iff]; omega)

theorem endBitH_fails {d : Nat} (s : State) (h : 200 ≤ d) : endBitH d s = complete 1 s :=
  if_pos ((timedOut_iff d).2 h)

/-! ## The micro-operations (R121 to R129) -/

/-- Settles O21: a tick in IDLE only records its draws at the ports. -/
theorem idleChangesNothing : Obligations.IdleChangesNothing := by
  refine ⟨fun _ => rfl, fun s draws hr hs => ?_⟩
  obtain ⟨t, hrun, ht⟩ := run_idle draws hr hs
  refine ⟨t, hrun, ?_, ?_⟩ <;> rw [ht]
  exact Safety.sameElements_refl s

/-- Settles O22: the two branches of ARM. -/
theorem armClaimsThePadOrFails : Obligations.ArmClaimsThePadOrFails := fun _ =>
  ⟨fun ha => congrArg Host.Outcome.next (if_pos ha),
    fun ha => congrArg Host.Outcome.next (if_neg (by simp [ha]))⟩

/-- The two branches of a fixed sleep, as outcomes. -/
theorem sleep_branches (n : Nat) (next : State → State) (s : State) :
    (s.cnt.toNat + 1 = n → (.next (sleep n next s) : Host.Outcome State Fault Refusal) = .next (next s)) ∧
    (s.cnt.toNat + 1 ≠ n → (.next (sleep n next s) : Host.Outcome State Fault Refusal) =
      .next { s with cnt := s.cnt + 1 }) :=
  ⟨fun hc => by rw [sleep_ends next hc], fun hc => by rw [sleep_counts next hc, setCnt_succ]⟩

/-- Settles O25: the two branches of a sleep of one tick. -/
theorem releaseSwitchesToInput : Obligations.ReleaseSwitchesToInput := fun s => sleep_branches 1 _ s

/-- Settles O26: the timer counts, stops, or is ended by the Low sample, and a duration below the timeout
passes. -/
theorem firstAckHighAcceptsAnyLengthBelowTimeout : Obligations.FirstAckHighAcceptsAnyLengthBelowTimeout := by
  refine fun s => ⟨fun hl hc => ?_, fun hl hc => ?_, fun hl hc => ?_, fun hl hc => ?_⟩ <;>
    refine congrArg Host.Outcome.next ?_
  · exact (measure_counts _ hl hc).trans (setCnt_succ s)
  · exact (measure_stops _ hl hc).trans (endAckH1_fails s hc.le)
  · exact (measure_changes _ (by simp [hl])).trans (endAckH1_passes s hc)
  · exact (measure_changes _ (by simp [hl])).trans (endAckH1_fails s hc)

/-- Settles O27: the timer counts, stops, or is ended by the High sample, and the window decides. -/
theorem ackLowPassesOnlyInItsWindow : Obligations.AckLowPassesOnlyInItsWindow := by
  refine fun s => ⟨fun hl hc => ?_, fun hl hc => ?_, fun hl hmin hmax => ?_, fun hl hc => ?_⟩ <;>
    refine congrArg Host.Outcome.next ?_
  · exact (measure_counts _ hl hc).trans (setCnt_succ s)
  · exact (measure_stops _ hl hc).trans (endAckL_fails s (by omega))
  · exact (measure_changes _ (by simp [hl])).trans (endAckL_passes s hmin hmax)
  · exact (measure_changes _ (by simp [hl])).trans (endAckL_fails s hc)

/-- Settles O28: the timer counts, stops, or is ended by the Low sample, and the window decides. -/
theorem secondAckHighPassesOnlyInItsWindow : Obligations.SecondAckHighPassesOnlyInItsWindow := by
  refine fun s => ⟨fun hl hc => ?_, fun hl hc => ?_, fun hl hmin hmax => ?_, fun hl hc => ?_⟩ <;>
    refine congrArg Host.Outcome.next ?_
  · exact (measure_counts _ hl hc).trans (setCnt_succ s)
  · exact (measure_stops _ hl hc).trans (endAckH2_fails s (by omega))
  · exact (measure_changes _ (by simp [hl])).trans (endAckH2_passes s hmin hmax)
  · exact (measure_changes _ (by simp [hl])).trans (endAckH2_fails s hc)

theorem decodeState_defined : ∀ c : StateCode, c.toNat ≤ 10 →
    decodeState c ≠ .reserved11 ∧ ∀ c', decodeState c ≠ .reserved1215 c' := by decide

/-- Settles O29: both reserved operations complete, and an invariant state holds a defined code. -/
theorem reservedCodeCompletesWithInternal : Obligations.ReservedCodeCompletesWithInternal := by
  refine ⟨fun _ => rfl, fun _ _ => rfl, fun s hinv c => ?_⟩
  obtain ⟨h11, h1215⟩ := decodeState_defined s.st hinv.legalState
  exact ⟨h11, h1215 c⟩

/-! ## Host accesses (R132) -/

/-- Settles O15: a busy engine accepts no START, and a read only moves `rdata`. -/
theorem noHostAccessDisturbsATransaction : Obligations.NoHostAccessDisturbsATransaction := by
  intro s s' w hr hb h
  rcases hostStep_cases hr h with rfl | ⟨v, rfl⟩ | ⟨hidle, -⟩
  · exact ⟨rfl, fun _ => rfl⟩
  · exact ⟨rfl, fun a => memRead_setRdata a v s⟩
  · exact absurd hidle ((busy_iff s).1 hb)

/-! ## The order of the states (R130) -/

theorem mayFollow_measuring : ∀ c : StateCode, measuring c = true →
    Safety.mayFollow c c = true ∧ Safety.mayFollow c 0 = true := by decide

theorem mayFollow_reserved : ∀ c : StateCode, 11 ≤ c.toNat → Safety.mayFollow c 0 = true := by decide

/-- Every move goes on in the order of R130. -/
theorem mayFollow_of_move {s t : State} (m : EngineMove s t) : Safety.mayFollow s.st t.st = true := by
  cases m with
  | idle hs | armClaims hs | armFails hs | busIdleCounts hs | busIdleEnds hs | startLowCounts hs
  | startLowEnds hs | releaseCounts hs | releaseEnds hs | ackH1Passes hs | ackH1Fails hs | ackLPasses hs
  | ackLFails hs | ackH2Passes hs | ackH2Fails hs | bitLPasses hs | bitLFails hs | bitHFails hs
  | checkPublishes hs | checkFails hs => simp [hs, Safety.mayFollow]
  | bitHPasses hs =>
    rw [hs, advance_st]
    split <;> rfl
  | measureCounts hm => exact (mayFollow_measuring _ hm).1
  | timerStops hm => exact (mayFollow_measuring _ hm).2
  | reserved hs => exact mayFollow_reserved _ hs

/-- Settles O43: every move of a tick follows the order, and the only host access that moves the engine is an
accepted START. -/
theorem statesAreVisitedInOrder : Obligations.StatesAreVisitedInOrder := by
  refine ⟨fun s s' a v hr h => ?_, fun s s' w hr h => ?_⟩
  · exact mayFollow_of_move (s := takeDraws a v s) (engineStep_cases hr h)
  · rcases hostStep_cases hr h with rfl | ⟨v, rfl⟩ | ⟨hidle, rfl, -⟩
    · exact .inl rfl
    · exact .inl rfl
    · exact .inr ⟨hidle, rfl⟩

/-! ## Each move is what its state's micro-operation does -/

theorem measuring_cases : ∀ c : StateCode, measuring c = true → c = 5 ∨ c = 6 ∨ c = 7 ∨ c = 8 ∨ c = 9 := by
  decide

/-- A measuring state runs the timer at its target level, and a stopped timer is a TIMEOUT whatever the state's
own rule for a duration is (41_pulse_timer.md R104). -/
theorem exec_measuring {c : StateCode} (hm : measuring c = true) : ∃ f : Nat → State → State,
    (∀ s, exec (decodeState c) s = .next (measure (targetLevel c) f s)) ∧
    ∀ d s, 200 < d → f d s = complete 1 s := by
  rcases measuring_cases c hm with rfl | rfl | rfl | rfl | rfl
  · exact ⟨endAckH1, fun _ => rfl, fun d s h => endAckH1_fails s h.le⟩
  · exact ⟨endAckL, fun _ => rfl, fun d s h => endAckL_fails s (by omega)⟩
  · exact ⟨endAckH2, fun _ => rfl, fun d s h => endAckH2_fails s (by omega)⟩
  · exact ⟨endBitL, fun _ => rfl, fun d s h => endBitL_fails s h.le⟩
  · exact ⟨endBitH, fun _ => rfl, fun d s h => endBitH_fails s h.le⟩

/-- A sample off the target level ends a measurement at its count. -/
theorem exec_measure_ends {s t : State} {c : StateCode} {v : Level} {f : Nat → State → State} (hs : s.st = c)
    (hexec : exec (decodeState c) s = .next (measure v f s)) (hl : s.lineIn = !v)
    (hend : f s.cnt.toNat s = t) : exec (decodeState s.st) s = .next t := by
  rw [hs, hexec, measure_changes f (by simp [hl]), hend]

theorem exec_sleep_ends {s t : State} {c : StateCode} {n : Nat} {f : State → State} (hs : s.st = c)
    (hexec : exec (decodeState c) s = .next (sleep n f s)) (hc : s.cnt.toNat + 1 = n) (hend : f s = t) :
    exec (decodeState s.st) s = .next t := by
  rw [hs, hexec, sleep_ends f hc, hend]

theorem exec_sleep_counts {s : State} {c : StateCode} {n : Nat} {f : State → State} (hs : s.st = c)
    (hexec : exec (decodeState c) s = .next (sleep n f s)) (hc : s.cnt.toNat + 1 ≠ n) :
    exec (decodeState s.st) s = .next (setCnt (s.cnt.toNat + 1) s) := by
  rw [hs, hexec, sleep_counts f hc]

/-- The converse of `exec_decodeState`: a move whose conditions hold is the one that is made. -/
theorem exec_of_move {s t : State} (m : EngineMove s t) : exec (decodeState s.st) s = .next t := by
  cases m with
  | idle hs => rw [hs]; rfl
  | armClaims hs ha => rw [hs]; exact congrArg Host.Outcome.next (if_pos ha)
  | armFails hs ha => rw [hs]; exact congrArg Host.Outcome.next (if_neg (by simp [ha]))
  | busIdleCounts hs hc | startLowCounts hs hc | releaseCounts hs hc => exact exec_sleep_counts hs rfl hc
  | busIdleEnds hs hc | startLowEnds hs hc | releaseEnds hs hc => exact exec_sleep_ends hs rfl hc rfl
  | measureCounts hm hl hc =>
    obtain ⟨f, hexec, -⟩ := exec_measuring hm
    rw [hexec, measure_counts f hl hc]
  | timerStops hm hl hc =>
    obtain ⟨f, hexec, hstop⟩ := exec_measuring hm
    rw [hexec, measure_stops f hl (by omega), hstop _ s (by omega)]
  | ackH1Passes hs hl hc => exact exec_measure_ends hs rfl hl (endAckH1_passes s hc)
  | ackH1Fails hs hl hc => exact exec_measure_ends hs rfl hl (endAckH1_fails s hc)
  | ackLPasses hs hl hmin hmax => exact exec_measure_ends hs rfl hl (endAckL_passes s hmin hmax)
  | ackLFails hs hl hc => exact exec_measure_ends hs rfl hl (endAckL_fails s hc)
  | ackH2Passes hs hl hmin hmax => exact exec_measure_ends hs rfl hl (endAckH2_passes s hmin hmax)
  | ackH2Fails hs hl hc => exact exec_measure_ends hs rfl hl (endAckH2_fails s hc)
  | bitLPasses hs hl hc => exact exec_measure_ends hs rfl hl (endBitL_passes s hc)
  | bitLFails hs hl hc => exact exec_measure_ends hs rfl hl (endBitL_fails s hc)
  | bitHPasses hs hl hc => exact exec_measure_ends hs rfl hl (endBitH_passes s hc)
  | bitHFails hs hl hc => exact exec_measure_ends hs rfl hl (endBitH_fails s hc)
  | checkPublishes hs hc => rw [hs]; exact congrArg Host.Outcome.next (if_pos hc)
  | checkFails hs hc => rw [hs]; exact congrArg Host.Outcome.next (if_neg (by simp [hc]))
  | reserved hs => rcases decode_reserved _ hs with h | h <;> rw [h] <;> rfl

/-- A tick makes the move whose conditions its draws meet. -/
theorem engineStep_of_move {s t : State} {a v : Level} (hr : s.rst = false)
    (m : EngineMove (takeDraws a v s) t) : engineStep a v s = .next t :=
  (engineStep_eq hr).trans (exec_of_move m)

/-! ## What a tick reads of its draws (R133) -/

/-- No move writes a port. -/
theorem EngineMove.ports {s t : State} (m : EngineMove s t) :
    t.lineIn = s.lineIn ∧ t.lineAvail = s.lineAvail := by
  cases m <;> exact ⟨rfl, rfl⟩

/-- A move reads the sample in a measuring state only and the availability in ARM only: where the other draws
agree so far, they make the same move. -/
theorem EngineMove.otherDraws {s t : State} {a v b u : Level} (m : EngineMove (takeDraws a v s) t)
    (ha : measuring s.st = true → a = b) (hv : s.st = 1 → v = u) :
    EngineMove (takeDraws b u s) (takeDraws b u t) := by
  cases m with
  | idle hs => exact .idle hs
  | armClaims hs hl => exact .armClaims hs (hv hs ▸ hl)
  | armFails hs hl => exact .armFails hs (hv hs ▸ hl)
  | busIdleCounts hs hc => exact .busIdleCounts hs hc
  | busIdleEnds hs hc => exact .busIdleEnds hs hc
  | startLowCounts hs hc => exact .startLowCounts hs hc
  | startLowEnds hs hc => exact .startLowEnds hs hc
  | releaseCounts hs hc => exact .releaseCounts hs hc
  | releaseEnds hs hc => exact .releaseEnds hs hc
  | measureCounts hm hl hc => exact .measureCounts hm (ha hm ▸ hl) hc
  | timerStops hm hl hc => exact .timerStops hm (ha hm ▸ hl) hc
  | ackH1Passes hs hl hc => exact .ackH1Passes hs (ha (congrArg measuring hs) ▸ hl) hc
  | ackH1Fails hs hl hc => exact .ackH1Fails hs (ha (congrArg measuring hs) ▸ hl) hc
  | ackLPasses hs hl hmin hmax => exact .ackLPasses hs (ha (congrArg measuring hs) ▸ hl) hmin hmax
  | ackLFails hs hl hc => exact .ackLFails hs (ha (congrArg measuring hs) ▸ hl) hc
  | ackH2Passes hs hl hmin hmax => exact .ackH2Passes hs (ha (congrArg measuring hs) ▸ hl) hmin hmax
  | ackH2Fails hs hl hc => exact .ackH2Fails hs (ha (congrArg measuring hs) ▸ hl) hc
  | bitLPasses hs hl hc => exact .bitLPasses hs (ha (congrArg measuring hs) ▸ hl) hc
  | bitLFails hs hl hc => exact .bitLFails hs (ha (congrArg measuring hs) ▸ hl) hc
  | bitHPasses hs hl hc => exact .bitHPasses hs (ha (congrArg measuring hs) ▸ hl) hc
  | bitHFails hs hl hc => exact .bitHFails hs (ha (congrArg measuring hs) ▸ hl) hc
  | checkPublishes hs hc => exact .checkPublishes hs hc
  | checkFails hs hc => exact .checkFails hs hc
  | reserved hs => exact .reserved hs

/-- Settles O44: the other tick makes the same move, with its own draw at the port. -/
theorem drawsAreReadOnlyWhereTheRulesSay : Obligations.DrawsAreReadOnlyWhereTheRulesSay := by
  constructor
  · intro s a b v hr hm
    obtain ⟨t, ht⟩ := engineStep_next a v s
    have hmove := engineStep_cases hr ht
    have hother := hmove.otherDraws (b := b) (fun h => absurd (hm.symm.trans h) (by decide)) fun _ => rfl
    refine ⟨t, ht, (engineStep_of_move hr hother).trans ?_⟩
    rw [takeDraws, show v = t.lineAvail from hmove.ports.2.symm]
  · intro s a v u hr h1
    obtain ⟨t, ht⟩ := engineStep_next a v s
    have hmove := engineStep_cases hr ht
    have hother := hmove.otherDraws (u := u) (fun _ => rfl) fun h => absurd h h1
    refine ⟨t, ht, (engineStep_of_move hr hother).trans ?_⟩
    rw [takeDraws, show a = t.lineIn from hmove.ports.1.symm]

/-! ## Runs of ticks -/

@[simp] theorem setCnt_self (s : State) : setCnt s.cnt.toNat s = s := by
  rw [setCnt, BitVec.ofNat_toNat, BitVec.setWidth_eq]

theorem EngineMove.rst {s t : State} (m : EngineMove s t) : t.rst = s.rst := by
  cases m <;> rfl

theorem perform_tick_of_move {s t : State} {a v : Level} (hr : s.rst = false)
    (m : EngineMove (takeDraws a v s) t) : perform (.tick a v) s = .next t :=
  engineStep_of_move hr m

theorem runEvents_tick_of_move {s t : State} {d : Level × Level} (ds : List (Level × Level)) (hr : s.rst = false)
    (m : EngineMove (takeDraws d.1 d.2 s) t) : runEvents (ticks (d :: ds)) s = runEvents (ticks ds) t :=
  runEvents_cons_next _ (perform_tick_of_move hr m)

/-- What holds before a run of ticks holds after it where the draws and every move keep it. -/
theorem run_ticks_keeps {P : State → Prop} (hdraws : ∀ a v s, P s → P (takeDraws a v s))
    (hmoves : ∀ s t, EngineMove s t → P s → P t) {s t : State} {draws : List (Level × Level)}
    (hr : s.rst = false) (hs : P s) (h : runEvents (ticks draws) s = .next t) : P t := by
  induction draws generalizing s with
  | nil => cases h; exact hs
  | cons d ds ih =>
    obtain ⟨u, hu⟩ := engineStep_next d.1 d.2 s
    have m := engineStep_cases hr hu
    rw [runEvents_tick_of_move ds hr m] at h
    exact ih (m.rst.trans hr) (hmoves _ _ m (hdraws _ _ s hs)) h

/-! ## The fixed sleeps (R123 to R125) -/

/-- State `c` counts to `n` ticks, which fit the count, and then goes on by `next`, which forgets the count. -/
structure FixedSleep (c : StateCode) (n : Nat) (next : State → State) : Prop where
  counts : ∀ s, s.st = c → s.cnt.toNat + 1 ≠ n → EngineMove s (setCnt (s.cnt.toNat + 1) s)
  ends : ∀ s, s.st = c → s.cnt.toNat + 1 = n → EngineMove s (next s)
  forgets : ∀ k s, next (setCnt k s) = next s
  fits : n < 65536

theorem fixedSleep_busIdle : FixedSleep 2 1000 fun s => advance 3 0 (drive true false 1 s) :=
  ⟨fun _ => .busIdleCounts, fun _ => .busIdleEnds, fun _ _ => rfl, by decide⟩

theorem fixedSleep_startLow : FixedSleep 3 1100 fun s => advance 4 0 (drive true true 1 s) :=
  ⟨fun _ => .startLowCounts, fun _ => .startLowEnds, fun _ _ => rfl, by decide⟩

theorem fixedSleep_release : FixedSleep 4 1 fun s => advance 5 0 (drive false true 1 s) :=
  ⟨fun _ => .releaseCounts, fun _ => .releaseEnds, fun _ _ => rfl, by decide⟩

section
variable {c : StateCode} {n : Nat} {next : State → State} {s : State} {draws : List (Level × Level)}

/-- Fewer ticks than remain only count. -/
theorem FixedSleep.stays (sleeps : FixedSleep c n next) (hr : s.rst = false) (hs : s.st = c)
    (hlen : s.cnt.toNat + draws.length < n) : ∃ a v, runEvents (ticks draws) s =
      .next (setCnt (s.cnt.toNat + draws.length) (takeDraws a v s)) := by
  have hfits := sleeps.fits
  induction draws generalizing s with
  | nil => exact ⟨s.lineIn, s.lineAvail, congrArg Host.Outcome.next (setCnt_self s).symm⟩
  | cons d ds ih =>
    rw [List.length_cons] at hlen ⊢
    have hcnt := setCnt_toNat (c := s.cnt.toNat + 1) (takeDraws d.1 d.2 s) (by omega)
    have hmove := sleeps.counts (takeDraws d.1 d.2 s) hs (by rw [takeDraws_cnt]; omega)
    obtain ⟨a, v, hrun⟩ := ih (s := setCnt (s.cnt.toNat + 1) (takeDraws d.1 d.2 s)) hr hs (by omega)
    refine ⟨a, v, (runEvents_tick_of_move ds hr hmove).trans (hrun.trans ?_)⟩
    rw [hcnt, Nat.add_right_comm, Nat.add_assoc]
    rfl

/-- Where at least as many ticks come as remain, the sleep ends after exactly those. -/
theorem FixedSleep.passes (sleeps : FixedSleep c n next) (hr : s.rst = false) (hs : s.st = c)
    (hcnt : s.cnt.toNat < n) (hlen : n ≤ s.cnt.toNat + draws.length) :
    ∃ rest a v, rest.length + n = s.cnt.toNat + draws.length ∧
      runEvents (ticks draws) s = runEvents (ticks rest) (next (takeDraws a v s)) := by
  have hfits := sleeps.fits
  induction draws generalizing s with
  | nil => exact absurd hcnt (by simpa using hlen)
  | cons d ds ih =>
    rw [List.length_cons] at hlen ⊢
    by_cases hlast : s.cnt.toNat + 1 = n
    · exact ⟨ds, d.1, d.2, by omega, runEvents_tick_of_move ds hr (sleeps.ends (takeDraws d.1 d.2 s) hs hlast)⟩
    · have hcnt' := setCnt_toNat (c := s.cnt.toNat + 1) (takeDraws d.1 d.2 s) (by omega)
      obtain ⟨rest, a, v, hrest, hrun⟩ :=
        ih (s := setCnt (s.cnt.toNat + 1) (takeDraws d.1 d.2 s)) hr hs (by omega) (by omega)
      have hmove := sleeps.counts (takeDraws d.1 d.2 s) hs hlast
      exact ⟨rest, a, v, by omega, (runEvents_tick_of_move ds hr hmove).trans
        (hrun.trans (congrArg _ (sleeps.forgets _ (takeDraws a v s))))⟩

/-- A sleep from its entry: still asleep before tick `n`, and gone on with it. -/
theorem FixedSleep.lasts (sleeps : FixedSleep c n next) (hr : s.rst = false) (hs : s.st = c) (h0 : s.cnt = 0)
    (hn : 0 < n) : ∃ t, runEvents (ticks draws) s = .next t ∧
      (draws.length < n → t.st = c ∧ t.cnt.toNat = draws.length ∧ t.lineOe = s.lineOe ∧ t.lineOut = s.lineOut) ∧
      (draws.length = n → ∃ a v, t = next (takeDraws a v s)) := by
  have hcnt : s.cnt.toNat = 0 := by rw [h0]; rfl
  have hfits := sleeps.fits
  obtain ⟨t, hrun⟩ := runEvents_next (ticks draws) s
  refine ⟨t, hrun, fun hlt => ?_, fun heq => ?_⟩
  · obtain ⟨a, v, hstays⟩ := sleeps.stays hr hs (draws := draws) (by omega)
    cases hrun.symm.trans hstays
    exact ⟨hs, by rw [setCnt_toNat _ (by omega)]; omega, rfl, rfl⟩
  · obtain ⟨rest, a, v, hrest, hpasses⟩ := sleeps.passes hr hs (draws := draws) (by omega) (by omega)
    obtain rfl : rest = [] := List.length_eq_zero_iff.1 (by omega)
    cases hrun.symm.trans hpasses
    exact ⟨a, v, rfl⟩

end

/-- Settles O23: the two branches of the sleep, and its length from its entry. -/
theorem busIdleLastsItsTicks : Obligations.BusIdleLastsItsTicks := by
  refine ⟨fun s => sleep_branches 1000 _ s, fun s draws hr hs h0 => ?_⟩
  obtain ⟨t, hrun, hstays, hends⟩ := fixedSleep_busIdle.lasts (draws := draws) hr hs h0 (by decide)
  refine ⟨t, hrun, hstays, fun hlen => ?_⟩
  obtain ⟨a, v, rfl⟩ := hends hlen
  exact ⟨rfl, rfl, rfl, rfl⟩

/-- Settles O24: the two branches of the sleep, and its length from its entry. -/
theorem startLowLastsItsTicks : Obligations.StartLowLastsItsTicks := by
  refine ⟨fun s => sleep_branches 1100 _ s, fun s draws hr hs h0 => ?_⟩
  obtain ⟨t, hrun, hstays, hends⟩ := fixedSleep_startLow.lasts (draws := draws) hr hs h0 (by decide)
  refine ⟨t, hrun, hstays, fun hlen => ?_⟩
  obtain ⟨a, v, rfl⟩ := hends hlen
  exact ⟨rfl, rfl, rfl, rfl⟩

/-! ## From an accepted START to the first acknowledgement (R131) -/

/-- The word 0x801 in IDLE is an accepted START (45_host_interface.md R200). -/
theorem runEvents_start {s : State} (es : List Event) (hr : s.rst = false) (hs : s.st = 0) :
    runEvents (.host 0x801 :: es) s = runEvents es (acceptStart s) :=
  runEvents_cons_next es ((hostStep_eq 0x801 hr).trans (congrArg Host.Outcome.next (if_pos hs)))

/-- The pad is available at the first of the ticks, where there is one. -/
def padAtFirst (draws : List (Level × Level)) : Prop := ∀ d, draws.head? = some d → d.2 = true

/-- With the `k`-th of the ticks after an accepted START the engine enters `c` at count 0 and drives the line; the
run goes on from there. -/
def SetupEnters (draws : List (Level × Level)) (s : State) (k : Nat) (c : StateCode) (oe : Bool) (out : Level) :
    Prop :=
  ∃ rest a v, rest.length + k = draws.length ∧ runEvents (.host 0x801 :: ticks draws) s =
    runEvents (ticks rest) (advance c 0 (drive oe out 1 (takeDraws a v (acceptStart s))))

section
variable {s : State} {draws : List (Level × Level)} {k n : Nat} {c c' : StateCode} {oe oe' : Bool}
  {out out' : Level}

/-- The setup passes a sleep that has as many ticks as it lasts. -/
theorem SetupEnters.sleep (h : SetupEnters draws s k c oe out)
    (sleeps : FixedSleep c n fun s => advance c' 0 (drive oe' out' 1 s)) (hr : s.rst = false) (hn : 0 < n)
    (hlen : k + n ≤ draws.length) : SetupEnters draws s (k + n) c' oe' out' := by
  obtain ⟨ds, b, u, hds, hrun⟩ := h
  obtain ⟨rest, a, v, hrest, hpasses⟩ := sleeps.passes (draws := ds)
    (s := advance c 0 (drive oe out 1 (takeDraws b u (acceptStart s)))) hr rfl hn (by simp; omega)
  exact ⟨rest, a, v, by simp at hrest; omega, hrun.trans hpasses⟩

/-- The setup is in a sleep that has fewer ticks than it lasts, with the line as at its entry. -/
theorem SetupEnters.stays {next : State → State} {t : State} (h : SetupEnters draws s k c oe out)
    (sleeps : FixedSleep c n next) (hr : s.rst = false) (hlen : draws.length < k + n)
    (hrun : runEvents (.host 0x801 :: ticks draws) s = .next t) : t.lineOe = oe ∧ t.lineOut = out := by
  obtain ⟨rest, a, v, hrest, hgo⟩ := h
  obtain ⟨b, u, hstays⟩ := sleeps.stays (draws := rest)
    (s := advance c 0 (drive oe out 1 (takeDraws a v (acceptStart s)))) hr rfl (by simp; omega)
  cases hrun.symm.trans (hgo.trans hstays)
  exact ⟨rfl, rfl⟩

theorem setupEnters_busIdle (hr : s.rst = false) (hs : s.st = 0) (hpad : padAtFirst draws)
    (hlen : 1 ≤ draws.length) : SetupEnters draws s 1 2 true true := by
  cases draws with
  | nil => simp at hlen
  | cons d ds => exact ⟨ds, d.1, d.2, rfl, (runEvents_start _ hr hs).trans
      (runEvents_tick_of_move ds hr (.armClaims rfl (hpad d rfl)))⟩

theorem setupEnters_startLow (hr : s.rst = false) (hs : s.st = 0) (hpad : padAtFirst draws)
    (hlen : 1001 ≤ draws.length) : SetupEnters draws s 1001 3 true false :=
  (setupEnters_busIdle hr hs hpad (by omega)).sleep fixedSleep_busIdle hr (by decide) hlen

theorem setupEnters_release (hr : s.rst = false) (hs : s.st = 0) (hpad : padAtFirst draws)
    (hlen : 2101 ≤ draws.length) : SetupEnters draws s 2101 4 true true :=
  (setupEnters_startLow hr hs hpad (by omega)).sleep fixedSleep_startLow hr (by decide) hlen

theorem setupEnters_ackH1 (hr : s.rst = false) (hs : s.st = 0) (hpad : padAtFirst draws)
    (hlen : 2102 ≤ draws.length) : SetupEnters draws s 2102 5 false true :=
  (setupEnters_release hr hs hpad (by omega)).sleep fixedSleep_release hr (by decide) hlen

end

/-! ## The line of a transaction (R131) -/

/-- In IDLE and from ACK_H1 on the pin is an Input at its pulled-up level (10_state.md R40). -/
theorem released_of_engineInv {s : State} (h : Safety.EngineInv s) (hs : s.st = 0 ∨ 5 ≤ s.st.toNat) :
    s.lineOe = false ∧ s.lineOut = true := by
  rcases hs with hs | hs
  · exact ⟨Bool.eq_false_iff.2 fun hoe => absurd (h.output.1 hoe) (by simp [hs]),
      Bool.eq_true_of_not_eq_false fun hout => absurd (h.low.1 hout) (by simp [hs])⟩
  · exact h.input hs

/-- The order of R130 reaches the states that drive the line from ARM only. -/
theorem notDriving_of_mayFollow : ∀ c c' : StateCode, Safety.mayFollow c c' = true →
    (c = 0 ∨ 5 ≤ c.toNat) → c' = 0 ∨ 5 ≤ c'.toNat := by decide

theorem run_ticks_engineInv {s t : State} {draws : List (Level × Level)} (h : Safety.EngineInv s)
    (hr : s.rst = false) (hrun : runEvents (ticks draws) s = .next t) : Safety.EngineInv t :=
  run_ticks_keeps (fun _ _ s => .congr (Safety.sameElements_refl s)) (fun _ _ => Safety.engineInv_of_move) hr h hrun

/-- Settles O50: each part of the setup is where the sleeps before it have passed and its own has not; after it
the order of the states never drives the line again, and the invariants of R40 give the line of such a state. -/
theorem drivenWaveform : Obligations.DrivenWaveform := by
  intro s draws hinv hr hs hpad
  obtain ⟨t, hrun⟩ := runEvents_next (.host 0x801 :: ticks draws) s
  have hinv' : Safety.EngineInv t :=
    run_ticks_engineInv (Safety.engineInv_acceptStart hinv hs) hr ((runEvents_start _ hr hs).symm.trans hrun)
  have hafter (h : 2102 ≤ draws.length) : ∃ rest u, rest.length + 2102 = draws.length ∧ u.rst = false ∧
      u.st = 5 ∧ u.cnt = 0 ∧ runEvents (ticks rest) u = .next t := by
    obtain ⟨rest, a, v, hrest, hgo⟩ := setupEnters_ackH1 hr hs hpad h
    exact ⟨rest, advance 5 0 (drive false true 1 (takeDraws a v (acceptStart s))), hrest, hr, rfl, rfl,
      hgo.symm.trans hrun⟩
  refine ⟨t, hrun, hinv'.pulledUp, fun h => ?_, fun hmin hmax => ?_, fun hmin hmax => ?_, fun h => ?_,
    fun h => ?_, fun h => ?_⟩
  · have hline := released_of_engineInv hinv (.inl hs)
    obtain rfl := List.length_eq_zero_iff.1 h
    cases (runEvents_start _ hr hs).symm.trans hrun
    exact hline
  · exact (setupEnters_busIdle hr hs hpad hmin).stays fixedSleep_busIdle hr (by omega) hrun
  · exact (setupEnters_startLow hr hs hpad hmin).stays fixedSleep_startLow hr (by omega) hrun
  · exact (setupEnters_release hr hs hpad h.ge).stays fixedSleep_release hr (by omega) hrun
  · obtain ⟨rest, u, hrest, -, hst, hcnt, hgo⟩ := hafter h.ge
    obtain rfl : rest = [] := List.length_eq_zero_iff.1 (by omega)
    cases hgo
    exact ⟨hst, hcnt⟩
  · obtain ⟨rest, u, -, hru, hst, -, hgo⟩ := hafter h
    refine released_of_engineInv hinv' (run_ticks_keeps (P := fun s => s.st = 0 ∨ 5 ≤ s.st.toNat)
      (fun _ _ _ => id) (fun _ _ m => notDriving_of_mayFollow _ _ (mayFollow_of_move m)) hru ?_ hgo)
    exact .inr (by simp [hst])

/-! ## Pulses (41_pulse_timer.md R103) -/

/-- Samples at the target level add to the count of a measurement. -/
theorem run_counts {s : State} {level : Level} (n : Nat) (hr : s.rst = false) (hm : measuring s.st = true)
    (ht : targetLevel s.st = level) (hc : s.cnt.toNat + n ≤ 200) : ∃ a v,
      runEvents (List.replicate n (.tick level true)) s = .next (setCnt (s.cnt.toNat + n) (takeDraws a v s)) := by
  subst ht
  obtain ⟨t, hrun, ht⟩ := run_target n true hr hm hc
  exact ⟨t.lineIn, t.lineAvail, hrun.trans (congrArg Host.Outcome.next ht)⟩

/-- A pulse whose first sample enters the state that measures it is counted whole. -/
theorem run_pulse {s u : State} {level : Level} {n : Nat} (hr : s.rst = false)
    (m : EngineMove (takeDraws level true s) u) (hm : measuring u.st = true) (ht : targetLevel u.st = level)
    (hc : u.cnt = 1) (hmin : 1 ≤ n) (hmax : n ≤ 200) : ∃ a v,
      runEvents (List.replicate n (.tick level true)) s = .next (setCnt n (takeDraws a v u)) := by
  obtain ⟨k, rfl⟩ := Nat.exists_eq_add_of_le hmin
  have hone : u.cnt.toNat = 1 := by rw [hc]; rfl
  obtain ⟨a, v, hrun⟩ := run_counts k (m.rst.trans hr) hm ht (by omega)
  rw [hone] at hrun
  exact ⟨a, v, by rw [Nat.add_comm, List.replicate_succ, runEvents_cons_next _ (perform_tick_of_move hr m), hrun,
    Nat.add_comm]⟩

/-- A transaction whose setup and acknowledgement are inside their limits is in ACK_H2, with the last pulse
counted and the line released. -/
theorem run_acknowledged {s : State} {setup : List (Level × Level)} {a1 a2 a3 : Nat} (hr : s.rst = false)
    (hs : s.st = 0) (hlen : setup.length = 2102) (hpad : padAtFirst setup) (h1 : a1 < 200)
    (h2 : 70 ≤ a2 ∧ a2 ≤ 90) (h3 : 70 ≤ a3 ∧ a3 ≤ 90) : ∃ a v,
      runEvents (.host 0x801 :: ticks setup ++ highs a1 ++ lows a2 ++ highs a3) s =
        .next (advance 7 a3 (drive false true 1 (takeDraws a v (acceptStart s)))) := by
  obtain ⟨rest, b, u, hrest, hsetup⟩ := setupEnters_ackH1 hr hs hpad hlen.ge
  obtain rfl : rest = [] := List.length_eq_zero_iff.1 (by omega)
  obtain ⟨b1, u1, hH1⟩ := run_counts a1 (level := true)
    (s := advance 5 0 (drive false true 1 (takeDraws b u (acceptStart s)))) hr rfl rfl (by simp; omega)
  obtain ⟨b2, u2, hL⟩ := run_pulse (level := false) (n := a2)
    (s := advance 5 a1 (drive false true 1 (takeDraws b1 u1 (acceptStart s)))) hr
    (.ackH1Passes rfl rfl (by simp; omega)) rfl rfl rfl (by omega) (by omega)
  obtain ⟨b3, u3, hH2⟩ := run_pulse (level := true) (n := a3)
    (s := advance 6 a2 (drive false true 1 (takeDraws b2 u2 (acceptStart s)))) hr
    (.ackLPasses rfl rfl (by simp; omega) (by simp; omega)) rfl rfl rfl (by omega) (by omega)
  have hrun1 := (runEvents_append hsetup).trans hH1
  rw [show (advance 5 0 (drive false true 1 (takeDraws b u (acceptStart s)))).cnt.toNat = 0 from rfl,
    Nat.zero_add] at hrun1
  have hrun2 := (runEvents_append hrun1).trans hL
  exact ⟨b3, u3, (runEvents_append hrun2).trans hH2⟩

/-! ## The data phase (43_data_phase.md R150 to R153) -/

theorem slotPulses_cons (p : Nat × Nat) (ps : List (Nat × Nat)) :
    slotPulses (p :: ps) = lows p.1 ++ highs p.2 ++ slotPulses ps := List.flatMap_cons

theorem lows_succ (n : Nat) : lows (n + 1) = lows 1 ++ lows n := rfl

/-- The Low sample that ends a High pulse is the first of the next slot, or the trailing one. -/
theorem slotPulses_begin_low {ps : List (Nat × Nat)} (h : ∀ p ∈ ps, 1 ≤ p.1) :
    slotPulses ps ++ lows 1 = lows 1 ++ (slotPulses ps ++ lows 1).tail := by
  cases ps with
  | nil => rfl
  | cons p ps =>
    obtain ⟨k, hk⟩ := Nat.exists_eq_add_of_le' (h p List.mem_cons_self)
    rw [slotPulses_cons, hk, lows_succ]
    rfl

/-- One bit-slot and the Low sample after it, within BIT_L's first sample. -/
theorem slotPulses_cons_tail {p : Nat × Nat} {ps : List (Nat × Nat)} (hp : 1 ≤ p.1) (h : ∀ q ∈ ps, 1 ≤ q.1) :
    (slotPulses (p :: ps) ++ lows 1).tail =
      lows (p.1 - 1) ++ highs p.2 ++ lows 1 ++ (slotPulses ps ++ lows 1).tail := by
  obtain ⟨k, hk⟩ := Nat.exists_eq_add_of_le' hp
  rw [slotPulses_cons, List.append_assoc, slotPulses_begin_low h, hk, lows_succ]
  simp [lows]

/-- A pulse pair of a slot, both below the timeout. -/
def pulsesFit (p : Nat × Nat) : Prop := 1 ≤ p.1 ∧ p.1 < 200 ∧ 1 ≤ p.2 ∧ p.2 < 200

/-- What a bit-slot leaves: the Low duration latched, the bit packed, and the next slot, or CHECK, entered. -/
def slotDone (p : Nat × Nat) (s : State) : State :=
  advance (if s.bitidx.toNat = 39 then 10 else 8) 1 (setBitidx (s.bitidx.toNat + 1)
    (setAsm (pack s.asm s.bitidx.toNat (decide (p.1 < p.2))) (setLowdur p.1 s)))

/-- The Low sample after a High pulse decides the bit and packs it (R151). -/
theorem perform_tick_slotDone {s : State} {p : Nat × Nat} (hr : s.rst = false) (hp : pulsesFit p) :
    perform (.tick false true) (advance 9 p.2 (setLowdur p.1 s)) = .next (slotDone p (takeDraws false true s)) := by
  obtain ⟨-, hlow, -, hhigh⟩ := hp
  have hlowdur : (BitVec.ofNat 8 p.1).toNat = p.1 := by simp; omega
  have hcnt : (BitVec.ofNat 16 p.2).toNat = p.2 := by simp; omega
  have m := EngineMove.bitHPasses (s := takeDraws false true (advance 9 p.2 (setLowdur p.1 s))) rfl rfl
    (hcnt.trans_lt hhigh)
  rw [takeDraws_lowdur, takeDraws_cnt, advance_lowdur, advance_cnt, setLowdur_lowdur, hlowdur, hcnt] at m
  exact perform_tick_of_move (s := advance 9 p.2 (setLowdur p.1 s)) hr m

/-- The slot that BIT_L has begun, up to the Low sample that ends its High pulse. -/
theorem run_slot {s : State} {p : Nat × Nat} (hr : s.rst = false) (hs : s.st = 8) (hc : s.cnt = 1)
    (hp : pulsesFit p) : ∃ a v,
      runEvents (lows (p.1 - 1) ++ highs p.2 ++ lows 1) s = .next (slotDone p (takeDraws a v s)) := by
  obtain ⟨hl1, hl2, hh1, hh2⟩ := id hp
  have hone : s.cnt.toNat = 1 := by rw [hc]; rfl
  obtain ⟨a1, v1, hlow⟩ := run_counts (p.1 - 1) (level := false) hr (by rw [hs]; rfl) (by rw [hs]; rfl) (by omega)
  rw [hone, Nat.add_sub_cancel' hl1] at hlow
  have hcnt := setCnt_toNat (takeDraws a1 v1 s) (c := p.1) (by omega)
  obtain ⟨a2, v2, hhigh⟩ := run_pulse (level := true) (n := p.2) (s := setCnt p.1 (takeDraws a1 v1 s)) hr
    (.bitLPasses hs rfl (by simp; omega)) rfl rfl rfl hh1 (by omega)
  rw [takeDraws_cnt, hcnt] at hhigh
  have hlast : runEvents (lows 1) (advance 9 p.2 (setLowdur p.1 (takeDraws a2 v2 s))) =
      .next (slotDone p (takeDraws false true s)) := runEvents_cons_next [] (perform_tick_slotDone hr hp)
  exact ⟨false, true, (runEvents_append ((runEvents_append hlow).trans hhigh)).trans hlast⟩

/-! ## The bits of a frame (43_data_phase.md R152 to R155) -/

/-- Packing a slot sets it (43_data_phase.md R153). -/
theorem slotBit_pack_same {i : Nat} (a : Frame) (b : Bool) (hi : i < 40) : slotBit (pack a i b) i = b := by
  rw [pack, if_pos (by simpa using hi)]
  have hbit (x : Byte) : (setBit x (7 - i % 8) b).getLsbD (7 - i % 8) = b := setBit_same x b (by omega)
  have hk : i / 8 < 5 := by omega
  unfold slotBit modifyByte
  interval_cases i / 8 <;> exact hbit _

/-- The slots from `i` on hold the comparisons of the pulse pairs (R152), and the engine is in CHECK. -/
structure SlotsDecoded (i : Nat) (pulses : List (Nat × Nat)) (s t : State) : Prop where
  inCheck : t.st = 10
  rst : t.rst = false
  frame : t.frame = s.frame
  kept : ∀ j < i, slotBit t.asm j = slotBit s.asm j
  decided : ∀ (j : Nat) (p : Nat × Nat), pulses[j]? = some p → slotBit t.asm (i + j) = decide (p.1 < p.2)

/-- The first slot, then the rest. -/
theorem SlotsDecoded.cons {i : Nat} {p : Nat × Nat} {ps : List (Nat × Nat)} {s t : State} {a v : Level}
    (hi : s.bitidx.toNat = i) (hlt : i < 40)
    (h : SlotsDecoded (i + 1) ps (slotDone p (takeDraws a v s)) t) : SlotsDecoded i (p :: ps) s t := by
  subst hi
  refine ⟨h.inCheck, h.rst, h.frame, fun j hj => ?_, fun j q hq => ?_⟩
  · exact (h.kept j (by omega)).trans (Safety.slotBit_pack_other (i := s.bitidx.toNat) _ _ hlt (by omega))
  · cases j with
    | zero =>
      obtain rfl : p = q := by simpa using hq
      exact (h.kept _ (by omega)).trans (slotBit_pack_same (i := s.bitidx.toNat) _ _ hlt)
    | succ j =>
      rw [← h.decided j q (by simpa using hq), Nat.add_right_comm, Nat.add_assoc]

/-- The slots from the one that BIT_L has begun to slot 39. -/
theorem run_slots {s : State} {i : Nat} {pulses : List (Nat × Nat)} (hr : s.rst = false)
    (hs : s.st = if i = 40 then 10 else 8) (hc : s.cnt = 1) (hi : s.bitidx.toNat = i)
    (hlen : i + pulses.length = 40) (hp : ∀ p ∈ pulses, pulsesFit p) :
    ∃ t, runEvents (slotPulses pulses ++ lows 1).tail s = .next t ∧ SlotsDecoded i pulses s t := by
  induction pulses generalizing s i with
  | nil =>
    have h40 : i = 40 := hlen
    exact ⟨s, rfl, by rw [hs, if_pos h40], hr, rfl, fun _ _ => rfl, fun _ _ h => by simp at h⟩
  | cons p ps ih =>
    rw [List.length_cons] at hlen
    have hfit := hp p List.mem_cons_self
    have hps : ∀ q ∈ ps, pulsesFit q := fun q hq => hp q (List.mem_cons_of_mem p hq)
    obtain ⟨a, v, hslot⟩ := run_slot hr (by rw [hs, if_neg (by omega)]) hc hfit
    have hnext : (slotDone p (takeDraws a v s)).st = if i + 1 = 40 then 10 else 8 := by
      simp [slotDone, hi]
    have hidx : (slotDone p (takeDraws a v s)).bitidx.toNat = i + 1 := by
      simp [slotDone, hi]; omega
    obtain ⟨t, hrun, hdec⟩ := ih (s := slotDone p (takeDraws a v s)) hr hnext rfl hidx (by omega) hps
    refine ⟨t, ?_, hdec.cons hi (by omega)⟩
    rw [slotPulses_cons_tail hfit.1 fun q hq => (hps q hq).1, runEvents_append hslot, hrun]

/-- The data phase from the end of the acknowledgement: all 40 slots, the line at last Low. -/
theorem run_dataPhase {s : State} {pulses : List (Nat × Nat)} (hr : s.rst = false) (hs : s.st = 7)
    (hack : 70 ≤ s.cnt.toNat ∧ s.cnt.toNat ≤ 90) (hlen : pulses.length = 40)
    (hp : ∀ p ∈ pulses, pulsesFit p) :
    ∃ t, runEvents (slotPulses pulses ++ lows 1) s = .next t ∧ SlotsDecoded 0 pulses s t := by
  have hentry : runEvents (lows 1) s = .next (advance 8 1 (setBitidx 0 (takeDraws false true s))) :=
    runEvents_cons_next [] (perform_tick_of_move hr
      (.ackH2Passes (s := takeDraws false true s) hs rfl hack.1 hack.2))
  obtain ⟨t, hrun, hdec⟩ := run_slots (s := advance 8 1 (setBitidx 0 (takeDraws false true s))) (i := 0) hr rfl rfl
    rfl (by omega) hp
  refine ⟨t, ?_, hdec.inCheck, hdec.rst, hdec.frame, hdec.kept, hdec.decided⟩
  rw [slotPulses_begin_low fun p h => (hp p h).1, runEvents_append hentry, hrun]

/-- The tick of CHECK completes the transaction (R154): OK with the frame, or CHECKSUM with FRAME as it was. -/
theorem perform_tick_check {s : State} (a v : Level) (hr : s.rst = false) (hs : s.st = 10) :
    ∃ t, perform (.tick a v) s = .next t ∧ t.st = 0 ∧ t.done = true ∧ t.asm = s.asm ∧
      (checksumOk t.asm = true → t.result = 0 ∧ t.frame = t.asm) ∧
      (checksumOk t.asm = false → t.result = 2 ∧ t.frame = s.frame) := by
  cases hok : checksumOk s.asm with
  | true => exact ⟨_, perform_tick_of_move hr (.checkPublishes hs hok), rfl, rfl, rfl, fun _ => ⟨rfl, rfl⟩,
      fun h => absurd (hok.symm.trans h) (by decide)⟩
  | false => exact ⟨_, perform_tick_of_move hr (.checkFails hs hok), rfl, rfl, rfl,
      fun h => absurd (hok.symm.trans h) (by decide), fun _ => ⟨rfl, rfl⟩⟩

/-- Settles O52: the setup and the acknowledgement, the 40 slots, and CHECK, one after the other. -/
theorem wellTimedTransactionDeliversItsFrame : Obligations.WellTimedTransactionDeliversItsFrame := by
  intro s setup a1 a2 a3 pulses hr hs hlen hpad h1 h2min h2max h3min h3max hpulses hp
  obtain ⟨a, v, hack⟩ := run_acknowledged hr hs hlen hpad h1 ⟨h2min, h2max⟩ ⟨h3min, h3max⟩
  obtain ⟨c, hdata, hdec⟩ := run_dataPhase
    (s := advance 7 a3 (drive false true 1 (takeDraws a v (acceptStart s)))) hr rfl (by simp; omega) hpulses hp
  obtain ⟨t, hcheck, hidle, hdone, hasm, hok, hbad⟩ := perform_tick_check false true hdec.rst hdec.inCheck
  have hrun := (runEvents_append hack).trans hdata
  rw [← List.append_assoc] at hrun
  refine ⟨c, t, hrun, hdec.inCheck, ?_, hidle, hdone, fun i p hi => ?_, hok, fun h => ?_⟩
  · rw [lows_succ, ← List.append_assoc, runEvents_append hrun]
    exact runEvents_cons_next [] hcheck
  · rw [hasm, ← hdec.decided i p hi, Nat.zero_add]
  · exact ⟨(hbad h).1, (hbad h).2.trans hdec.frame⟩

end Sys2Proof.Machine

/-! SUPPORT. Proofs of the statements of 43_data_phase.md: the micro-operations of the data phase and of CHECK, the
frame assembler, who writes FRAME, and the data phase of a transaction whose pulses may reach the timeout. -/

namespace Sys2Proof.Machine

/-! ## The frame assembler (R153) -/

/-- Settles O32: packing sets its slot and leaves the others, and the slots of a byte are its bits, the most
significant first. -/
theorem packWritesOneSlot : Obligations.PackWritesOneSlot := by
  refine ⟨fun a i b hi => ⟨slotBit_pack_same a b hi, fun j _ hij => Safety.slotBit_pack_other a b hi hij⟩, ?_⟩
  intro f j hj
  interval_cases j <;> exact ⟨rfl, rfl, rfl, rfl, rfl⟩

/-! ## The writers of FRAME (R156) -/

/-- A tick leaves FRAME, or it is a CHECK that publishes a matching buffer. -/
theorem frame_of_move {s t : State} (m : EngineMove s t) :
    t.frame = s.frame ∨ s.st = 10 ∧ checksumOk s.asm = true ∧ t = complete 0 (publish s) := by
  cases m with
  | checkPublishes hs hok => exact .inr ⟨hs, hok, rfl⟩
  | _ => exact .inl rfl

/-- Settles O42: the invariant clears FRAME after a failure, and of the moves of a step only a publishing CHECK, an
accepted START and reset write it. -/
theorem frameIsWrittenOnlyByASuccessfulCheck : Obligations.FrameIsWrittenOnlyByASuccessfulCheck := by
  refine ⟨fun s hinv _ hres => hinv.noFrame (.inr hres), fun s t hstep hne => ?_⟩
  cases Safety.step_move hstep with
  | keeps _ _ e =>
    obtain ⟨-, -, -, hframe, -⟩ := e
    exact absurd hframe.symm hne
  | starts _ hs hag hw => exact .inr ⟨rfl, .inl ⟨hs, rfl, _, _, _, hag, hw⟩⟩
  | resets hcause ht => exact .inr ⟨by rw [← ht]; rfl, .inr hcause⟩
  | ticks _ hag m =>
    rcases frame_of_move m with hframe | ⟨hs, hok, rfl⟩
    · exact absurd hframe hne
    · exact .inl ⟨hs, hok, rfl, rfl, rfl, hag⟩

/-! ## A pulse that reaches the timeout (R150, R151; 41_pulse_timer.md R104) -/

/-- The engine is in IDLE with TIMEOUT, and FRAME holds `f`. -/
structure TimedOut (f : Frame) (t : State) : Prop where
  idle : t.st = 0
  rst : t.rst = false
  done : t.done = true
  result : t.result = 1
  frame : t.frame = f

/-- Ticks in IDLE leave the outcome. -/
theorem TimedOut.run_idle {f : Frame} {t : State} (h : TimedOut f t) (draws : List (Level × Level)) :
    ∃ u, runEvents (ticks draws) t = .next u ∧ TimedOut f u := by
  obtain ⟨u, hrun, hu⟩ := Machine.run_idle draws h.rst h.idle
  exact ⟨u, hrun, by rw [hu]; exact ⟨h.idle, h.rst, h.done, h.result, h.frame⟩⟩

/-- At count 200 of BIT_L or BIT_H either level is a TIMEOUT: one more sample at the target stops the timer, and a
sample off it ends the pulse at 200. -/
theorem move_of_count_full {s : State} (hs : s.st = 8 ∨ s.st = 9) (hc : s.cnt.toNat = 200) :
    EngineMove s (complete 1 s) := by
  by_cases hl : s.lineIn = targetLevel s.st
  · exact .timerStops (by rcases hs with hs | hs <;> simp [hs]) hl hc.ge
  · rcases hs with hs | hs
    · exact .bitLFails hs (by simpa [hs] using hl) hc.ge
    · exact .bitHFails hs (by simpa [hs] using hl) hc.ge

/-- One tick at a full count times out, and the ticks after it find the engine in IDLE. -/
theorem run_count_full {s : State} {draws : List (Level × Level)} (hr : s.rst = false) (hs : s.st = 8 ∨ s.st = 9)
    (hc : s.cnt.toNat = 200) (hnext : draws ≠ []) :
    ∃ t, runEvents (ticks draws) s = .next t ∧ TimedOut s.frame t := by
  obtain ⟨d, ds, rfl⟩ := List.exists_cons_of_ne_nil hnext
  have hout : TimedOut s.frame (complete 1 (takeDraws d.1 d.2 s)) := ⟨rfl, hr, rfl, rfl, rfl⟩
  rw [runEvents_tick_of_move ds hr (move_of_count_full (s := takeDraws d.1 d.2 s) hs hc)]
  exact hout.run_idle ds

theorem ticks_append (ds es : List (Level × Level)) : ticks (ds ++ es) = ticks ds ++ ticks es := List.map_append

theorem ticks_replicate (n : Nat) (a v : Level) :
    ticks (List.replicate n (a, v)) = List.replicate n (.tick a v) := List.map_replicate

theorem lows_eq_ticks (n : Nat) : lows n = ticks (List.replicate n (false, true)) := (ticks_replicate ..).symm

theorem highs_eq_ticks (n : Nat) : highs n = ticks (List.replicate n (true, true)) := (ticks_replicate ..).symm

/-- A data pulse of 200 samples or more times out, at its 201st sample or at the sample after it. -/
theorem run_long_pulse {s : State} {level : Level} {n : Nat} {draws : List (Level × Level)} (hr : s.rst = false)
    (hs : s.st = 8 ∨ s.st = 9) (ht : targetLevel s.st = level) (hc : s.cnt.toNat ≤ 200)
    (hn : 200 ≤ s.cnt.toNat + n) (hnext : draws ≠ []) :
    ∃ t, runEvents (List.replicate n (.tick level true) ++ ticks draws) s = .next t ∧ TimedOut s.frame t := by
  obtain ⟨k, rfl⟩ := Nat.exists_eq_add_of_le (show 200 - s.cnt.toNat ≤ n by omega)
  obtain ⟨a, v, hfull⟩ :=
    run_counts (200 - s.cnt.toNat) hr (by rcases hs with hs | hs <;> simp [hs]) ht (by omega)
  rw [Nat.add_sub_cancel' hc] at hfull
  rw [List.replicate_add, List.append_assoc, runEvents_append hfull, ← ticks_replicate, ← ticks_append]
  exact run_count_full (s := setCnt 200 (takeDraws a v s)) hr hs (setCnt_toNat _ (by decide)) (by simp [hnext])

/-- A Low pulse below the timeout is latched by the first High sample (R150). -/
theorem run_low_pulse {s : State} {n : Nat} (hr : s.rst = false) (hs : s.st = 8) (hc : s.cnt = 1) (hmin : 1 ≤ n)
    (hmax : n < 200) : ∃ a v,
      runEvents (lows (n - 1) ++ highs 1) s = .next (advance 9 1 (setLowdur n (takeDraws a v s))) := by
  have hone : s.cnt.toNat = 1 := by rw [hc]; rfl
  obtain ⟨a, v, hlow⟩ := run_counts (n - 1) (level := false) hr (by rw [hs]; rfl) (by rw [hs]; rfl) (by omega)
  rw [hone, Nat.add_sub_cancel' hmin] at hlow
  have hcnt := setCnt_toNat (takeDraws a v s) (c := n) (by omega)
  obtain ⟨b, u, hhigh⟩ := run_pulse (level := true) (n := 1) (s := setCnt n (takeDraws a v s)) hr
    (.bitLPasses hs rfl (by rw [takeDraws_cnt, hcnt]; exact hmax)) rfl rfl rfl (by decide) (by decide)
  rw [takeDraws_cnt, hcnt] at hhigh
  exact ⟨b, u, (runEvents_append hlow).trans hhigh⟩

/-- A bit-slot with a pulse of 200 or more, from its second sample to the Low sample after it. -/
theorem run_slot_long {s : State} {p : Nat × Nat} (hr : s.rst = false) (hs : s.st = 8) (hc : s.cnt = 1)
    (hp : 1 ≤ p.1 ∧ 1 ≤ p.2) (hlong : 200 ≤ p.1 ∨ 200 ≤ p.2) :
    ∃ t, runEvents (lows (p.1 - 1) ++ highs p.2 ++ lows 1) s = .next t ∧ TimedOut s.frame t := by
  by_cases hlow : 200 ≤ p.1
  · have hone : s.cnt.toNat = 1 := by rw [hc]; rfl
    rw [List.append_assoc, highs_eq_ticks, lows_eq_ticks 1, ← ticks_append]
    exact run_long_pulse hr (.inl hs) (by rw [hs]; rfl) (by omega) (by omega) (by simp)
  · obtain ⟨a, v, hlatch⟩ := run_low_pulse hr hs hc hp.1 (Nat.not_le.1 hlow)
    have hsplit : highs p.2 = highs 1 ++ highs (p.2 - 1) := by
      rw [highs, highs, highs, ← List.replicate_add, Nat.add_sub_cancel' hp.2]
    rw [hsplit, ← List.append_assoc, List.append_assoc, runEvents_append hlatch, lows_eq_ticks]
    exact run_long_pulse (s := advance 9 1 (setLowdur p.1 (takeDraws a v s))) hr (.inr rfl) rfl
      (by simp) (by simp; omega) (by simp)

/-- The samples of the data phase after its first are ticks. -/
theorem slotPulses_tail_eq_ticks (ps : List (Nat × Nat)) :
    ∃ draws, (slotPulses ps ++ lows 1).tail = ticks draws := by
  refine ⟨(ps.flatMap (fun p => List.replicate p.1 (false, true) ++ List.replicate p.2 (true, true))
    ++ [(false, true)]).tail, ?_⟩
  simp [ticks, slotPulses, lows, highs, List.map_flatMap]

/-- From the slot that BIT_L has begun: the slots before the first long pulse pass, and that pulse times out. -/
theorem run_slots_long {s : State} {pulses : List (Nat × Nat)} (hr : s.rst = false) (hs : s.st = 8)
    (hc : s.cnt = 1) (hlen : s.bitidx.toNat + pulses.length = 40) (hp : ∀ p ∈ pulses, 1 ≤ p.1 ∧ 1 ≤ p.2)
    (hlong : ∃ p ∈ pulses, 200 ≤ p.1 ∨ 200 ≤ p.2) :
    ∃ t, runEvents (slotPulses pulses ++ lows 1).tail s = .next t ∧ TimedOut s.frame t := by
  induction pulses generalizing s with
  | nil => simp at hlong
  | cons p ps ih =>
    obtain ⟨hp, hps⟩ := List.forall_mem_cons.1 hp
    rw [slotPulses_cons_tail hp.1 fun q hq => (hps q hq).1]
    by_cases hhead : 200 ≤ p.1 ∨ 200 ≤ p.2
    · obtain ⟨u, hslot, hu⟩ := run_slot_long hr hs hc hp hhead
      obtain ⟨draws, hrest⟩ := slotPulses_tail_eq_ticks ps
      rw [runEvents_append hslot, hrest]
      exact hu.run_idle draws
    · have hlong : ∃ q ∈ ps, 200 ≤ q.1 ∨ 200 ≤ q.2 := by simpa [hhead] using hlong
      have hpos : 0 < ps.length :=
        have ⟨_, hmem, _⟩ := hlong
        List.length_pos_of_mem hmem
      rw [List.length_cons] at hlen
      obtain ⟨a, v, hslot⟩ := run_slot hr hs hc (p := p) ⟨hp.1, by omega, hp.2, by omega⟩
      have hnext : (slotDone p (takeDraws a v s)).st = 8 := if_neg (by simp; omega)
      have hidx : (slotDone p (takeDraws a v s)).bitidx.toNat = s.bitidx.toNat + 1 := by
        simp [slotDone]; omega
      obtain ⟨t, hrun, ht⟩ := ih (s := slotDone p (takeDraws a v s)) hr hnext rfl (by omega) hps hlong
      exact ⟨t, (runEvents_append hslot).trans hrun, ht⟩

/-! ## The data phase to the end of the transaction (R158) -/

/-- The last of the two trailing Low samples, apart. -/
theorem dataPhase_samples (ps : List (Nat × Nat)) :
    (slotPulses ps ++ lows 2).tail = (slotPulses ps ++ lows 1).tail ++ lows 1 := by
  rw [lows_succ, ← List.append_assoc, List.tail_append_of_ne_nil (by simp [lows])]

/-- Settles O51: with a pulse of 200 or more the data phase ends with TIMEOUT, and otherwise CHECK judges the frame
that the slots' comparisons made. -/
theorem decidingAtOnceEqualsDecidingAtTheEnd : Obligations.DecidingAtOnceEqualsDecidingAtTheEnd := by
  intro s pulses hr hs hc hidx hlen hp
  have h0 : s.bitidx.toNat = 0 := by rw [hidx]; rfl
  rw [dataPhase_samples]
  by_cases hlong : ∃ p ∈ pulses, 200 ≤ p.1 ∨ 200 ≤ p.2
  · obtain ⟨u, hdata, hu⟩ := run_slots_long hr hs hc (by omega) hp hlong
    obtain ⟨t, hlast, ht⟩ := hu.run_idle [(false, true)]
    refine ⟨t, (runEvents_append hdata).trans hlast, ht.idle, ht.done, fun _ => ⟨ht.result, ht.frame⟩, fun hfit => ?_⟩
    obtain ⟨p, hmem, hge⟩ := hlong
    have := hfit p hmem
    omega
  · have hfit : ∀ p ∈ pulses, pulsesFit p := fun p hmem => by
      have hpos := hp p hmem
      have hshort : ¬ (200 ≤ p.1 ∨ 200 ≤ p.2) := fun h => hlong ⟨p, hmem, h⟩
      unfold pulsesFit
      omega
    obtain ⟨u, hdata, hdec⟩ := run_slots (i := 0) hr hs hc h0 (by omega) hfit
    obtain ⟨t, hcheck, hidle, hdone, hasm, hok, hbad⟩ := perform_tick_check false true hdec.rst hdec.inCheck
    refine ⟨t, (runEvents_append hdata).trans (runEvents_cons_next [] hcheck), hidle, hdone,
      fun h => absurd h hlong, fun _ => ⟨fun i p hi => ?_, hok, fun h => ?_⟩⟩
    · rw [hasm, ← hdec.decided i p hi, Nat.zero_add]
    · exact ⟨(hbad h).1, (hbad h).2.trans hdec.frame⟩

/-! ## The micro-operations (R150 to R155) -/

/-- Settles O30: the timer counts, stops, or is ended by the High sample, and a duration below the timeout fits
the latch. -/
theorem bitLowLatchesItsDuration : Obligations.BitLowLatchesItsDuration := by
  refine fun s => ⟨fun hl hc => ?_, fun hl hc => ?_, fun hl hc => ⟨BitVec.ofNat 8 s.cnt.toNat, ?_, ?_⟩,
    fun hl hc => ?_⟩
  · exact congrArg Host.Outcome.next ((measure_counts _ hl hc).trans (setCnt_succ s))
  · exact congrArg Host.Outcome.next ((measure_stops _ hl hc).trans (endBitL_fails s hc.le))
  · simp; omega
  · exact congrArg Host.Outcome.next ((measure_changes _ (by simp [hl])).trans (endBitL_passes s hc))
  · exact congrArg Host.Outcome.next ((measure_changes _ (by simp [hl])).trans (endBitL_fails s hc))

/-- A Low sample below the timeout packs the bit that the two durations decide (R151, R152). -/
theorem execBitH_passes {s : State} {b : Bool} (hl : s.lineIn = false) (hc : s.cnt.toNat < 200)
    (hb : bitDecide s.lowdur.toNat s.cnt.toNat = b) :
    execBitH s = .next { s with asm := pack s.asm s.bitidx.toNat b, bitidx := s.bitidx + 1, cnt := 1,
                                st := if s.bitidx.toNat = 39 then 10 else 8 } := by
  subst hb
  rw [execBitH, measure_changes _ (by simp [hl]), endBitH_passes s hc, setBitidx, ofNat_bitidx_succ]
  rfl

/-- Settles O31: the timer counts, stops, or is ended by the Low sample, and the comparison is strict. -/
theorem bitHighDecidesAndPacksTheBit : Obligations.BitHighDecidesAndPacksTheBit := by
  refine fun s => ⟨fun hl hc => ?_, fun hl hc => ?_, fun hl hc hgt => ?_, fun hl hc hle => ?_, fun hl hc => ?_⟩
  · exact congrArg Host.Outcome.next ((measure_counts _ hl hc).trans (setCnt_succ s))
  · exact congrArg Host.Outcome.next ((measure_stops _ hl hc).trans (endBitH_fails s hc.le))
  · exact execBitH_passes hl hc (decide_eq_true hgt)
  · exact execBitH_passes hl hc (decide_eq_false hle.not_gt)
  · exact congrArg Host.Outcome.next ((measure_changes _ (by simp [hl])).trans (endBitH_fails s hc))

/-- Settles O33: the sum does not wrap, so the test is one modulo 256, and CHECK branches on it. -/
theorem checkPublishesOnlyASoundFrame : Obligations.CheckPublishesOnlyASoundFrame := by
  refine ⟨fun f => ⟨sum16_toNat f, decide_eq_true_iff, checksumOk_iff f⟩, fun s => ⟨fun hok => ?_, fun hbad => ?_⟩⟩
  · exact congrArg Host.Outcome.next (if_pos ((checksumOk_iff s.asm).2 hok))
  · exact congrArg Host.Outcome.next (if_neg (mt (checksumOk_iff s.asm).1 hbad))

end Sys2Proof.Machine

/-! SUPPORT. Proofs of the statements of 44_decoders.md: the exact values of the decoders, the bound on the ticks of
a transaction (70_reset_and_hazards.md R272), the host's side of a transaction, and the caller operations. -/

namespace Sys2Proof.Machine

/-! ## The exact values of the decoders (R181 to R184) -/

theorem hMag_toNat (b : Frame) : (hMag b).toNat = b.b0.toNat * 256 + b.b1.toNat := by
  rw [hMag, BitVec.toNat_append, ← Nat.shiftLeft_add_eq_or_of_lt b.b1.isLt, Nat.shiftLeft_eq]

theorem tMag_toNat (b : Frame) : (tMag b).toNat = b.b2.toNat % 128 * 256 + b.b3.toNat := by
  rw [tMag, BitVec.toNat_append, ← Nat.shiftLeft_add_eq_or_of_lt b.b3.isLt, Nat.shiftLeft_eq]
  simp

/-- Bit 7 of byte 2 is its sign. -/
theorem tSign_eq (b : Frame) : tSign b = decide (128 ≤ b.b2.toNat) := by
  have := b.b2.isLt
  rw [tSign, BitVec.getLsbD, Nat.testBit_eq_decide_div_mod_eq]
  exact decide_eq_decide.mpr (by omega)

theorem temperature_of_positive {b : Frame} (h : b.b2.toNat < 128) :
    temperature b = ((b.b2.toNat * 256 + b.b3.toNat : Nat) : ℚ) / 10 := by
  have hsign : tSign b = false := by rw [tSign_eq]; exact decide_eq_false h.not_ge
  rw [temperature, temperatureTenths, hsign, if_neg Bool.false_ne_true, tMag_toNat, Nat.mod_eq_of_lt h,
    Int.cast_natCast]

theorem temperature_of_negative {b : Frame} (h : 128 ≤ b.b2.toNat) :
    temperature b = -(((b.b2.toNat - 128) * 256 + b.b3.toNat : Nat) : ℚ) / 10 := by
  have hlt := b.b2.isLt
  have hsign : tSign b = true := by rw [tSign_eq]; exact decide_eq_true h
  rw [temperature, temperatureTenths, hsign, if_pos rfl, tMag_toNat,
    show b.b2.toNat % 128 = b.b2.toNat - 128 by omega, Int.cast_neg, Int.cast_natCast]

/-- The magnitude has 15 bits, so the tenths lie between -32767 and 32767. -/
theorem abs_temperatureTenths_le (b : Frame) : |temperatureTenths b| ≤ 32767 := by
  have h := (tMag b).isLt
  have habs : |temperatureTenths b| = (tMag b).toNat := by
    rw [temperatureTenths]
    split <;> simp
  omega

/-- Settles O56: the sign bit picks the sign of the magnitude, which has 15 bits. -/
theorem temperatureIsSignMagnitude : Obligations.TemperatureIsSignMagnitude := by
  intro b
  obtain ⟨hlo, hhi⟩ := abs_le.1 (abs_temperatureTenths_le b)
  refine ⟨temperature_of_positive, temperature_of_negative, ?_, ?_⟩
  · exact div_le_div_of_nonneg_right (mod_cast hlo) (by norm_num)
  · exact div_le_div_of_nonneg_right (mod_cast hhi) (by norm_num)

/-- Settles O57: the two bytes are one 16-bit magnitude. -/
theorem humidityIsUnsigned : Obligations.HumidityIsUnsigned := by
  intro b
  have heq : humidity b = ((b.b0.toNat * 256 + b.b1.toNat : Nat) : ℚ) / 10 := by
    rw [humidity, humidityTenths, hMag_toNat, Int.cast_natCast]
  have hmax : b.b0.toNat * 256 + b.b1.toNat ≤ 65535 := by
    have := b.b0.isLt
    have := b.b1.isLt
    omega
  refine ⟨heq, heq ▸ by positivity, heq ▸ ?_⟩
  exact div_le_div_of_nonneg_right (mod_cast hmax) (by norm_num)

/-! ## The bound on the ticks of a transaction (70_reset_and_hazards.md R272) -/

/-- The largest count the engine holds in a state of a transaction. -/
def countMax (c : StateCode) : Nat :=
  match c.toNat with
  | 2 => 999
  | 3 => 1099
  | 5 | 6 | 7 | 8 | 9 => 200
  | 10 => 1
  | _ => 0

/-- The count held in a state, in slot `i`, and the ticks of the longest way from there to the completion add up to
this. The longest stay of a state is 1 tick in ARM and CHECK, the drive time in a sleep, 200 ticks in ACK_H1 (entered
at count 0), and up to count 90 in ACK_L and ACK_H2 and 199 in a data pulse (entered at count 1). A reserved code
completes with its next tick. -/
def tickBudget (c : StateCode) (i : Nat) : Nat :=
  match c.toNat with
  | 0 => 0
  | 1 => 18403
  | 2 => 18402
  | 3 => 17402
  | 4 => 16302
  | 5 => 16301
  | 6 => 16102
  | 7 => 16012
  | 8 => 398 * (39 - i) + 400
  | 9 => 398 * (39 - i) + 201
  | 10 => 2
  | _ => 1

theorem countMax_le : ∀ c : StateCode, countMax c ≤ 1099 := by decide

theorem countMax_of_measuring : ∀ c : StateCode, measuring c = true → countMax c = 200 := by decide

/-- The engine is busy with a transaction, with DONE clear, and every way to its completion takes at most `n`
ticks. -/
structure CompletesWithin (n : Nat) (s : State) : Prop where
  busy : s.st ≠ 0
  notDone : s.done = false
  count : s.cnt.toNat ≤ countMax s.st
  slot : s.st = 8 ∨ s.st = 9 → s.bitidx.toNat ≤ 39
  budget : tickBudget s.st s.bitidx.toNat ≤ n + s.cnt.toNat

/-- No count uses up the budget of its state. -/
theorem countMax_lt_tickBudget : ∀ (c : StateCode) (i : BitVec 6), c ≠ 0 →
    (c = 8 ∨ c = 9 → i.toNat ≤ 39) → countMax c < tickBudget c i.toNat := by decide +kernel

/-- A busy engine needs at least one more tick. -/
theorem CompletesWithin.pos {n : Nat} {s : State} (h : CompletesWithin n s) : 0 < n := by
  have hlt := countMax_lt_tickBudget s.st s.bitidx h.busy h.slot
  have hcnt := h.count
  have hbud := h.budget
  omega

/-- An accepted START has N_MAX ticks to its completion. -/
theorem completesWithin_acceptStart (s : State) : CompletesWithin nMax (acceptStart s) where
  busy := by simp
  notDone := rfl
  count := Nat.zero_le _
  slot := by simp
  budget := Nat.le_refl 18403

/-- Neither the draws nor a read are seen by the bound. -/
theorem CompletesWithin.takeDraws {n : Nat} {s : State} (h : CompletesWithin n s) (a v : Level) :
    CompletesWithin n (takeDraws a v s) := ⟨h.busy, h.notDone, h.count, h.slot, h.budget⟩

theorem CompletesWithin.setRdata {n : Nat} {s : State} (h : CompletesWithin n s) (v : Byte) :
    CompletesWithin n (setRdata v s) := ⟨h.busy, h.notDone, h.count, h.slot, h.budget⟩

/-- A tick that counts spends one tick of the budget. -/
theorem CompletesWithin.counts {n : Nat} {s : State} (h : CompletesWithin (n + 1) s)
    (hc : s.cnt.toNat + 1 ≤ countMax s.st) : CompletesWithin n (setCnt (s.cnt.toNat + 1) s) := by
  have hmax := countMax_le s.st
  have hcnt := setCnt_toNat (c := s.cnt.toNat + 1) s (by omega)
  exact ⟨h.busy, h.notDone, hcnt.trans_le hc, h.slot, by rw [hcnt]; exact h.budget.trans_eq (by omega)⟩

/-- A tick that goes on to another state pays for the budget of that state. -/
theorem completesWithin_advance {n c : Nat} {st' : StateCode} {u : State} (hb : st' ≠ 0) (hd : u.done = false)
    (hc : c ≤ countMax st') (hslot : st' = 8 ∨ st' = 9 → u.bitidx.toNat ≤ 39)
    (hbud : tickBudget st' u.bitidx.toNat ≤ n + c) : CompletesWithin n (advance st' c u) := by
  have hmax := countMax_le st'
  have hcnt : (advance st' c u).cnt.toNat = c := setCnt_toNat u (by omega)
  exact ⟨hb, hd, hcnt.trans_le hc, hslot, by rw [hcnt]; exact hbud⟩

/-- A tick completes the transaction or spends one tick of its budget. -/
theorem CompletesWithin.move {n : Nat} {s t : State} (h : CompletesWithin (n + 1) s) (m : EngineMove s t) :
    t.st = 0 ∧ t.done = true ∨ CompletesWithin n t := by
  have ⟨hbusy, hdone, hcnt, hslot, hbud⟩ := h
  cases m with
  | idle hs => exact absurd hs hbusy
  | armFails | timerStops | ackH1Fails | ackLFails | ackH2Fails | bitLFails | bitHFails | checkPublishes
  | checkFails | reserved => exact .inl ⟨rfl, rfl⟩
  | busIdleCounts hs | startLowCounts hs | releaseCounts hs =>
    refine .inr (h.counts ?_)
    simp [hs, countMax] at hcnt ⊢
    omega
  | measureCounts hm _ hc => exact .inr (h.counts (by rwa [countMax_of_measuring _ hm]))
  | armClaims hs | busIdleEnds hs | startLowEnds hs | releaseEnds hs | ackH1Passes hs | ackLPasses hs
  | ackH2Passes hs =>
    simp [hs, countMax, tickBudget] at hcnt hbud
    refine .inr (completesWithin_advance (by decide) hdone (by decide) (by simp) ?_)
    simp [tickBudget]
    omega
  | bitLPasses hs =>
    simp [hs, tickBudget] at hbud
    refine .inr (completesWithin_advance (by decide) hdone (by decide) (fun _ => hslot (.inl hs)) ?_)
    simp [tickBudget]
    omega
  | bitHPasses hs =>
    have hopen := hslot (.inr hs)
    have hnext : (BitVec.ofNat 6 (s.bitidx.toNat + 1)).toNat = s.bitidx.toNat + 1 := by simp; omega
    simp [hs, tickBudget] at hbud
    by_cases hlast : s.bitidx.toNat = 39
    · rw [if_pos hlast]
      refine .inr (completesWithin_advance (by decide) hdone (by decide) (by simp) ?_)
      simp [tickBudget]
      omega
    · rw [if_neg hlast]
      refine .inr (completesWithin_advance (by decide) hdone (by decide) (fun _ => ?_) ?_)
      · rw [setBitidx_bitidx, hnext]
        omega
      · rw [setBitidx_bitidx, hnext]
        simp [tickBudget]
        omega

/-! ## Host accesses (30_encoding.md R70, R84) -/

theorem perform_rd {s : State} (r : HostReg) (hr : s.rst = false) :
    perform (.host (rdWord r)) s = .next (readOp r s) := by
  refine (hostStep_eq _ hr).trans ?_
  rw [rdWord, exec_read _ (fieldWe_busWord ..), fieldAddr_busWord, memRead_ofAddr]
  rfl

theorem perform_start {s : State} (hr : s.rst = false) (hs : s.st = 0) :
    perform (.host (wrWord .ctrl 1)) s = .next (acceptStart s) :=
  (hostStep_eq _ hr).trans (congrArg Host.Outcome.next (if_pos hs))

/-- A read keeps the register's contents for the host. -/
theorem hostAccess_rd {h : HostRun} (r : HostReg) (hr : h.machine.rst = false) : hostAccess (rdWord r) h =
    .next ⟨readOp r h.machine, h.passed, regValue r h.machine :: h.reads⟩ := by
  rw [hostAccess, perform_rd r hr, rdWord, fieldWe_busWord]
  rfl

theorem hostAccess_start {h : HostRun} (hr : h.machine.rst = false) (hs : h.machine.st = 0) :
    hostAccess (wrWord .ctrl 1) h = .next { h with machine := acceptStart h.machine } := by
  rw [hostAccess, perform_start hr hs, wrWord, fieldWe_busWord]
  rfl

theorem hostAccesses_cons_next {w : BusWord} {h h' : HostRun} (ws : List BusWord)
    (hw : hostAccess w h = .next h') : hostAccesses (w :: ws) h = hostAccesses ws h' := by
  rw [hostAccesses, hw]

/-- A list of reads keeps every register's contents, the latest first, and moves only `rdata`. -/
theorem hostAccesses_rd {h : HostRun} (rs : List HostReg) (hr : h.machine.rst = false) :
    ∃ v, hostAccesses (rs.map rdWord) h = .next ⟨setRdata v h.machine, h.passed,
      (rs.map fun r => regValue r h.machine).reverse ++ h.reads⟩ := by
  induction rs generalizing h with
  | nil => exact ⟨h.machine.rdata, rfl⟩
  | cons r rs ih =>
    obtain ⟨v, hv⟩ := ih (h := ⟨readOp r h.machine, h.passed, regValue r h.machine :: h.reads⟩) hr
    refine ⟨v, (hostAccesses_cons_next _ (hostAccess_rd r hr)).trans (hv.trans ?_)⟩
    simp [readOp]

/-! ## The fields of STATUS (30_encoding.md R77) -/

theorem statusReg_done (s : State) : (statusReg s).getLsbD 1 = s.done := by
  have key : ∀ (r : BitVec 3) (d b : Bool),
      (0#3 ++ r ++ BitVec.ofBool d ++ BitVec.ofBool b).getLsbD 1 = d := by decide
  exact key s.result s.done (busy s)

theorem resultOfStatus_statusReg (s : State) : resultOfStatus (statusReg s) = s.result := by
  have key : ∀ (r : BitVec 3) (d b : Bool),
      (0#3 ++ r ++ BitVec.ofBool d ++ BitVec.ofBool b).extractLsb' 2 3 = r := by decide
  exact key s.result s.done (busy s)

/-! ## The poll (30_encoding.md R85) -/

/-- A turn that reads DONE ends the poll. -/
theorem hostPoll_done {env : Nat → Level × Level} {h : HostRun} (fuel : Nat) (hr : h.machine.rst = false)
    (hd : h.machine.done = true) : hostPoll env (fuel + 1) h =
      .next ⟨readOp .status h.machine, h.passed, statusReg h.machine :: h.reads⟩ := by
  rw [hostPoll, hostAccess_rd .status hr]
  exact if_pos ((statusReg_done _).trans hd)

/-- A turn that does not read DONE lets one tick pass. -/
theorem hostPoll_turn {env : Nat → Level × Level} {h : HostRun} {t : State} (fuel : Nat)
    (hr : h.machine.rst = false) (hd : h.machine.done = false)
    (ht : engineStep (env h.passed).1 (env h.passed).2 (readOp .status h.machine) = .next t) :
    hostPoll env (fuel + 1) h = hostPoll env fuel ⟨t, h.passed + 1, statusReg h.machine :: h.reads⟩ := by
  have hsaw : sawDone ⟨readOp .status h.machine, h.passed, statusReg h.machine :: h.reads⟩ = false :=
    (statusReg_done _).trans hd
  have htick : hostTick env ⟨readOp .status h.machine, h.passed, statusReg h.machine :: h.reads⟩ =
      .next ⟨t, h.passed + 1, statusReg h.machine :: h.reads⟩ := by
    rw [hostTick, perform, ht]
    rfl
  rw [hostPoll, hostAccess_rd .status hr]
  refine (if_neg (ne_true_of_eq_false hsaw)).trans ?_
  rw [regValue, htick]

/-- A poll with a turn more than the ticks to the completion ends with a completed transaction, the STATUS of
which it read last. -/
theorem hostPoll_completes {env : Nat → Level × Level} {n : Nat} {h : HostRun} (hr : h.machine.rst = false)
    (hm : h.machine.st = 0 ∧ h.machine.done = true ∨ CompletesWithin n h.machine) :
    ∃ t passed reads, hostPoll env (n + 1) h = .next ⟨t, passed, statusReg t :: reads⟩ ∧
      t.rst = false ∧ t.st = 0 ∧ t.done = true := by
  induction n generalizing h with
  | zero =>
    rcases hm with ⟨hs, hd⟩ | hm
    · exact ⟨_, _, _, hostPoll_done 0 hr hd, hr, hs, hd⟩
    · exact absurd hm.pos (Nat.lt_irrefl 0)
  | succ n ih =>
    rcases hm with ⟨hs, hd⟩ | hm
    · exact ⟨_, _, _, hostPoll_done (n + 1) hr hd, hr, hs, hd⟩
    · obtain ⟨t, ht⟩ := engineStep_next (env h.passed).1 (env h.passed).2 (readOp .status h.machine)
      have m := engineStep_cases (s := readOp .status h.machine) hr ht
      have hnext := ((hm.setRdata _).takeDraws _ _).move m
      rw [hostPoll_turn (n + 1) hr hm.notDone ht]
      exact ih (m.rst.trans hr) hnext

/-! ## The caller operations (R187) -/

theorem hostProgram_cons_next {env : Nat → Level × Level} {l : HostLine} {h h' : HostRun} (ls : List HostLine)
    (hl : hostLine env l h = .next h') : hostProgram env (l :: ls) h = hostProgram env ls h' := by
  rw [hostProgram, hl]

/-- A fresh transaction of the host ends completed, and the host decodes the RESULT and the FRAME that the machine
then holds. -/
theorem callerRead_answers {s : State} (env : Nat → Level × Level) (hr : s.rst = false) (hs : s.st = 0) :
    ∃ t : State, t.st = 0 ∧ t.done = true ∧ ∀ decodeFrame : BitVec 3 → Frame → Except ReadError Int,
      callerRead decodeFrame env s = some (decodeFrame t.result t.frame, t) := by
  have hstart : hostLine env .start ⟨s, 0, []⟩ = .next ⟨acceptStart s, 0, []⟩ :=
    hostAccesses_cons_next [] (hostAccess_start hr hs)
  obtain ⟨t, passed, reads, hpoll, htr, hts, htd⟩ :=
    hostPoll_completes (env := env) (h := ⟨acceptStart s, 0, []⟩) hr (.inr (completesWithin_acceptStart s))
  obtain ⟨v, hframe⟩ := hostAccesses_rd (h := ⟨t, passed, statusReg t :: reads⟩)
    [.frame0, .frame1, .frame2, .frame3, .frame4] htr
  refine ⟨setRdata v t, hts, htd, fun decodeFrame => ?_⟩
  have hprogram : hostProgram env readLines ⟨s, 0, []⟩ = .next ⟨setRdata v t, passed,
      t.frame.b4 :: t.frame.b3 :: t.frame.b2 :: t.frame.b1 :: t.frame.b0 :: statusReg t :: reads⟩ :=
    (hostProgram_cons_next _ hstart).trans
      ((hostProgram_cons_next (l := .poll) _ hpoll).trans (hostProgram_cons_next (l := .readframe) [] hframe))
  rw [callerRead, hprogram]
  simp [resultAndFrame, statusReg_done, htd, resultOfStatus_statusReg]

/-- What a caller gets of a decoder: its value where RESULT is OK, and the error RESULT names otherwise. -/
theorem callerFrame_map (decodeFrame : Frame → Int) (result : BitVec 3) (f : Frame) :
    (callerFrame result f).map decodeFrame =
      if result = 0 then .ok (decodeFrame f) else .error (errorOfResult result) := by
  rw [callerFrame, codeOk_value]
  split <;> rfl

/-- Settles O55: the poll has a turn for every tick of the longest transaction, and the host decodes what the
completed machine holds. -/
theorem callerOperationsAlwaysAnswer : Obligations.CallerOperationsAlwaysAnswer := by
  intro s env hr hs
  obtain ⟨t, hidle, hdone, hread⟩ := callerRead_answers env hr hs
  refine ⟨t, hidle, hdone, ?_, ?_⟩
  · rw [readTemperature, hread, callerTemperature, callerFrame_map]
  · rw [readHumidity, hread, callerHumidity, callerFrame_map]

end Sys2Proof.Machine

/-! SUPPORT. Proofs of the statements of 45_host_interface.md: what each host operation does, and the values that
the registers read where the invariant holds. -/

namespace Sys2Proof.Machine

/-! ## Writes (R200 to R202) -/

theorem exec_start_idle {s : State} (v : Byte) (hs : s.st = 0) : exec (.start v) s = .next (acceptStart s) :=
  congrArg Host.Outcome.next (if_pos hs)

theorem exec_start_busy {s : State} (v : Byte) (hs : s.st ≠ 0) : exec (.start v) s = .next s :=
  congrArg Host.Outcome.next (if_neg hs)

/-- CTRL is the only register that a write can change. -/
theorem exec_decodeWrite_readOnly {r : HostReg} (v : Byte) (s : State) (hr : r ≠ .ctrl) :
    exec (decodeWrite v r) s = .next s := by
  cases r with
  | ctrl => exact absurd rfl hr
  | status | frame0 | frame1 | frame2 | frame3 | frame4 | state => rfl

/-- Settles O12: START is accepted in IDLE, with the effect of `acceptStart`, and ignored elsewhere. -/
theorem startIsAcceptedOnlyInIdle : Obligations.StartIsAcceptedOnlyInIdle :=
  fun _ v => ⟨exec_start_idle v, exec_start_busy v⟩

/-- Settles O13: WR_CTRL_NOP is an ignored write, and the others address read-only registers. -/
theorem otherWritesChangeNothing : Obligations.OtherWritesChangeNothing := fun s v =>
  have ignored {r : HostReg} (hr : r ≠ .ctrl) := exec_decodeWrite_readOnly v s hr
  ⟨rfl, ignored (r := .status) nofun, ignored (r := .frame0) nofun, ignored (r := .frame1) nofun,
    ignored (r := .frame2) nofun, ignored (r := .frame3) nofun, ignored (r := .frame4) nofun,
    ignored (r := .state) nofun⟩

/-! ## Reads (R203 to R210) -/

/-- The read of a register answers its contents on `rdata`, whatever `wdata` is, and moves nothing else. -/
theorem exec_decodeRead (r : HostReg) (v : Byte) (s : State) :
    exec (decodeRead v r) s = .next { s with rdata := regValue r s } := by
  cases r <;> rfl

/-- Settles O16: CTRL holds 0x00. -/
theorem readControlGivesZero : Obligations.ReadControlGivesZero :=
  fun s v => exec_decodeRead .ctrl v s

/-- While BUSY the invariant has DONE and RESULT clear, so STATUS shows BUSY alone. -/
theorem statusReg_of_busy {s : State} (h : Safety.Inv s) (hb : busy s = true) : statusReg s = 0x01 := by
  have hdone := h.busyNotDone hb
  rw [statusReg, hb, hdone, h.noResult hdone]
  rfl

theorem busy_of_done {s : State} (h : Safety.EngineInv s) (hd : s.done = true) : busy s = false :=
  Bool.eq_false_iff.2 fun hb => absurd hd (by simp [h.busyNotDone hb])

/-- RESULT at most 3 is one of the codes of 30_encoding.md R74 that a completion writes. -/
theorem completed_result : ∀ r : BitVec 3, r.toNat ≤ 3 → r = 0 ∨ r = 1 ∨ r = 2 ∨ r = 3 := by decide

/-- With DONE the invariant has BUSY clear and RESULT at most 3, so STATUS shows one of four values. -/
theorem statusReg_of_done {s : State} (h : Safety.Inv s) (hd : s.done = true) :
    statusReg s = 0x02 ∨ statusReg s = 0x06 ∨ statusReg s = 0x0A ∨ statusReg s = 0x0E := by
  rw [statusReg, hd, busy_of_done h.toEngineInv hd]
  rcases completed_result s.result h.legalResult with hr | hr | hr | hr <;> rw [hr] <;> decide

/-- Settles O17: the read answers STATUS, and the invariant fixes the flags that it shows. -/
theorem readStatusGivesTheFlags : Obligations.ReadStatusGivesTheFlags :=
  ⟨fun s v => exec_decodeRead .status v s, fun _ => statusReg_of_busy, fun _ => statusReg_of_done⟩

/-- The invariant's `noFrame`, in the words of R205 to R209: only an OK result shows a frame. -/
theorem frame_of_not_ok {s : State} (h : Safety.EngineInv s) (hne : ¬(s.done = true ∧ s.result = 0)) :
    s.frame = Frame.zero := by
  refine h.noFrame ?_
  rcases Bool.eq_false_or_eq_true s.done with hd | hd
  · exact .inr fun hok => hne ⟨hd, hok⟩
  · exact .inl hd

/-- Settles O18: each read answers its byte, and the invariant clears FRAME or gives it a sound checksum. -/
theorem readFrameGivesItsBytes : Obligations.ReadFrameGivesItsBytes := by
  refine ⟨fun s v => ?_, fun s hinv hne => frame_of_not_ok hinv.toEngineInv hne, fun s hinv hd hok => ?_⟩
  · exact ⟨exec_decodeRead .frame0 v s, exec_decodeRead .frame1 v s, exec_decodeRead .frame2 v s,
      exec_decodeRead .frame3 v s, exec_decodeRead .frame4 v s⟩
  · exact (checksumOk_iff s.frame).1 (hinv.okChecksum ⟨hd, hok⟩)

theorem stateReg_toNat (s : State) : (stateReg s).toNat = s.st.toNat := by
  rw [stateReg, BitVec.toNat_append]
  simp

/-- Settles O19: the read answers the state code, and the invariant has it at most 10. -/
theorem readStateGivesTheCode : Obligations.ReadStateGivesTheCode := by
  refine ⟨fun s v => exec_decodeRead .state v s, fun s hinv => ?_⟩
  calc (memRead 7 s).toNat
    _ = s.st.toNat := stateReg_toNat s
    _ ≤ 10 := hinv.legalState

end Sys2Proof.Machine

/-! SUPPORT. Proofs of the statements of 60_exceptions.md: the causes of each result code, and the completion that
records it. -/

namespace Sys2Proof.Machine

/-! ## The causes of a completion (R231 to R235) -/

/-- A duration that the rule of a measuring state fails (R231). -/
def durationFails (c : StateCode) (d : Nat) : Prop :=
  (c = 5 ∧ 200 ≤ d) ∨ (c = 6 ∧ (d < 70 ∨ 90 < d)) ∨ (c = 7 ∧ (d < 70 ∨ 90 < d)) ∨
    (c = 8 ∧ 200 ≤ d) ∨ (c = 9 ∧ 200 ≤ d)

/-- The Pulse Timer ends at this tick, with a duration that the state fails (R231). -/
def measurementFails (s : State) : Prop :=
  ∃ d : Nat, pt (targetLevel s.st) s.cnt.toNat s.lineIn = .finish d ∧ durationFails s.st d

/-- The state of the engine and the draws at the ports cause a completion with this code. -/
def causes (s : State) (code : BitVec 3) : Prop :=
  (code = 0 ∧ s.st = 10 ∧ checksumOk s.asm = true) ∨ (code = 1 ∧ measurementFails s) ∨
    (code = 2 ∧ s.st = 10 ∧ checksumOk s.asm = false) ∨ (code = 3 ∧ s.st = 1 ∧ s.lineAvail = false) ∨
    (code = 4 ∧ 11 ≤ s.st.toNat)

/-- What a completion leaves: only the one with OK publishes the buffer (R236). -/
def completed (code : BitVec 3) (s : State) : State := complete code (if code = 0 then publish s else s)

theorem measuring_of_durationFails {c : StateCode} {d : Nat} (h : durationFails c d) : measuring c = true := by
  rcases h with ⟨rfl, -⟩ | ⟨rfl, -⟩ | ⟨rfl, -⟩ | ⟨rfl, -⟩ | ⟨rfl, -⟩ <;> rfl

/-- Every measuring state fails a duration beyond the bound of the timer (41_pulse_timer.md R104). -/
theorem durationFails_of_timer_stopped {c : StateCode} {d : Nat} (hm : measuring c = true) (hd : 200 < d) :
    durationFails c d := by
  rcases measuring_cases c hm with rfl | rfl | rfl | rfl | rfl <;> simp [durationFails] <;> omega

/-- A sample off the target ends the measurement at its count. -/
theorem measurementFails_of_level_changed {s : State} (hl : s.lineIn ≠ targetLevel s.st)
    (hd : durationFails s.st s.cnt.toNat) : measurementFails s := ⟨_, pt_level_changed _ hl, hd⟩

theorem measurementFails_of_timer_stops {s : State} (hm : measuring s.st = true)
    (hl : s.lineIn = targetLevel s.st) (hc : 200 ≤ s.cnt.toNat) : measurementFails s := by
  refine ⟨s.cnt.toNat + 1, ?_, durationFails_of_timer_stopped hm (by omega)⟩
  rw [hl, pt_timer_stops _ (by omega)]

/-- A duration that the state fails was measured by a timer that stopped, or is the count at which the line left
the target level. -/
theorem timer_of_measurementFails {s : State} (h : measurementFails s) :
    (s.lineIn = targetLevel s.st ∧ 200 ≤ s.cnt.toNat) ∨
    (s.lineIn ≠ targetLevel s.st ∧ durationFails s.st s.cnt.toNat) := by
  obtain ⟨d, hpt, hd⟩ := h
  by_cases hl : s.lineIn = targetLevel s.st
  · refine .inl ⟨hl, ?_⟩
    by_contra hc
    rw [hl, pt_counts _ (by omega)] at hpt
    cases hpt
  · rw [pt_level_changed _ hl] at hpt
    cases hpt
    exact .inr ⟨hl, hd⟩

/-! ## Causes and moves -/

theorem move_of_measurementFails {s : State} (h : measurementFails s) : EngineMove s (complete 1 s) := by
  have hm : measuring s.st = true := let ⟨_, _, hd⟩ := h; measuring_of_durationFails hd
  rcases timer_of_measurementFails h with ⟨hl, hc⟩ | ⟨hl, hd⟩
  · exact .timerStops hm hl hc
  · have hl : s.lineIn = !targetLevel s.st := Bool.eq_not.2 hl
    rcases hd with ⟨hs, hd⟩ | ⟨hs, hd⟩ | ⟨hs, hd⟩ | ⟨hs, hd⟩ | ⟨hs, hd⟩ <;> rw [hs] at hl
    · exact .ackH1Fails hs hl hd
    · exact .ackLFails hs hl hd
    · exact .ackH2Fails hs hl hd
    · exact .bitLFails hs hl hd
    · exact .bitHFails hs hl hd

/-- A cause is answered by the completion with its code. -/
theorem move_of_causes {s : State} {code : BitVec 3} (h : causes s code) : EngineMove s (completed code s) := by
  rcases h with ⟨rfl, hs, hok⟩ | ⟨rfl, hfails⟩ | ⟨rfl, hs, hok⟩ | ⟨rfl, hs, ha⟩ | ⟨rfl, hs⟩
  · exact .checkPublishes hs hok
  · exact move_of_measurementFails hfails
  · exact .checkFails hs hok
  · exact .armFails hs ha
  · exact .reserved hs

/-- A busy engine goes to IDLE only by a completion, on a cause of its code. -/
theorem EngineMove.completes {s t : State} (m : EngineMove s t) (hb : s.st ≠ 0) (hidle : t.st = 0) :
    ∃ code, causes s code ∧ t = completed code s := by
  have timeout (h : measurementFails s) : ∃ code, causes s code ∧ complete 1 s = completed code s :=
    ⟨1, .inr (.inl ⟨rfl, h⟩), rfl⟩
  cases m with
  | idle | busIdleCounts | startLowCounts | releaseCounts | measureCounts => exact absurd hidle hb
  | armClaims | busIdleEnds | startLowEnds | releaseEnds | ackH1Passes | ackLPasses | ackH2Passes
  | bitLPasses => simp at hidle
  | bitHPasses =>
    rw [advance_st] at hidle
    split at hidle <;> simp at hidle
  | timerStops hm hl hc => exact timeout (measurementFails_of_timer_stops hm hl hc)
  | ackH1Fails hs hl hd | ackLFails hs hl hd | ackH2Fails hs hl hd | bitLFails hs hl hd | bitHFails hs hl hd =>
    exact timeout (measurementFails_of_level_changed (by simp [hs, hl, targetLevel, stAckL, stBitL])
      (by simp [durationFails, hs, hd]))
  | checkPublishes hs hok => exact ⟨0, .inl ⟨rfl, hs, hok⟩, rfl⟩
  | checkFails hs hok => exact ⟨2, .inr (.inr (.inl ⟨rfl, hs, hok⟩)), rfl⟩
  | armFails hs ha => exact ⟨3, .inr (.inr (.inr (.inl ⟨rfl, hs, ha⟩))), rfl⟩
  | reserved hs => exact ⟨4, .inr (.inr (.inr (.inr ⟨rfl, hs⟩))), rfl⟩

/-- The conditions of the moves are exclusive: the micro-operation answers one state. -/
theorem EngineMove.unique {s t u : State} (m : EngineMove s t) (m' : EngineMove s u) : t = u :=
  Host.Outcome.next.inj ((exec_of_move m).symm.trans (exec_of_move m'))

/-- A busy engine completes with a code exactly on the causes of that code. -/
theorem EngineMove.completes_iff {s t : State} (m : EngineMove s t) (hb : s.st ≠ 0) (code : BitVec 3) :
    (t.st = 0 ∧ t.result = code) ↔ causes s code := by
  constructor
  · rintro ⟨hidle, hresult⟩
    obtain ⟨c, hc, rfl⟩ := m.completes hb hidle
    exact hresult ▸ hc
  · intro h
    rw [m.unique (move_of_causes h)]
    exact ⟨rfl, rfl⟩

/-! ## The statements -/

/-- Settles O39: the tick is a completion, and its code tells whether the buffer is published. -/
theorem completionReleasesTheLineAndRecordsTheCode :
    Obligations.CompletionReleasesTheLineAndRecordsTheCode := by
  intro s s' a v hr hb h hidle
  obtain ⟨code, -, rfl⟩ := (engineStep_cases hr h).completes ((busy_iff s).1 hb) hidle
  refine ⟨code, ?_⟩
  unfold completed
  split <;> rfl

/-- Settles O40: the causes of each code are read off, and the invariant, which the tick keeps, excludes
INTERNAL. -/
theorem eachResultHasItsCauses : Obligations.EachResultHasItsCauses := by
  intro s s' a v hr hb hinv h
  have m := engineStep_cases hr h
  have hinv' : Safety.Inv s' :=
    Safety.inv_of_move m (hinv.congr hr (Safety.sameElements_takeDraws s a v s.agenda s.draws)) hr
  have hcauses (code : BitVec 3) : (s'.st = 0 ∧ s'.result = code) ↔ causes (takeDraws a v s) code :=
    m.completes_iff ((busy_iff s).1 hb) code
  refine ⟨(hcauses 1).trans ?_, (hcauses 2).trans ?_, (hcauses 3).trans ?_, fun h4 => ?_, (hcauses 0).trans ?_⟩
  · simp [causes, measurementFails, durationFails]
  · simp [causes]
  · simp [causes]
  · exact absurd hinv'.legalResult (by simp [h4])
  · simp [causes]

end Sys2Proof.Machine

/-! SUPPORT. Proofs of the statements of 70_reset_and_hazards.md: the draws of a well-timed transaction and their
number, the bits of a frame, and the bound on every transaction. -/

namespace Sys2Proof.Machine

/-! ## The draws of a well-timed transaction (R271) -/

/-- The draws of a transaction after its START: the setup, the acknowledgement pulses, the bit-slots, and `trail`
trailing Low samples. -/
def transactionDraws (setup : List (Level × Level)) (a1 a2 a3 : Nat) (pulses : List (Nat × Nat)) (trail : Nat) :
    List (Level × Level) :=
  setup ++ List.replicate a1 (true, true) ++ List.replicate a2 (false, true) ++ List.replicate a3 (true, true)
    ++ pulses.flatMap (fun p => List.replicate p.1 (false, true) ++ List.replicate p.2 (true, true))
    ++ List.replicate trail (false, true)

section
variable (setup : List (Level × Level)) (a1 a2 a3 : Nat) (pulses : List (Nat × Nat)) (trail : Nat)

theorem ticks_transactionDraws : ticks (transactionDraws setup a1 a2 a3 pulses trail) =
    ticks setup ++ highs a1 ++ lows a2 ++ highs a3 ++ slotPulses pulses ++ lows trail := by
  simp [ticks, transactionDraws, slotPulses, lows, highs, List.map_flatMap]

theorem start_transactionDraws :
    .host 0x801 :: ticks setup ++ highs a1 ++ lows a2 ++ highs a3 ++ slotPulses pulses ++ lows trail =
      .host 0x801 :: ticks (transactionDraws setup a1 a2 a3 pulses trail) := by
  rw [ticks_transactionDraws]
  rfl

theorem length_transactionDraws : (transactionDraws setup a1 a2 a3 pulses trail).length =
    setup.length + a1 + a2 + a3 + (pulses.map fun p => p.1 + p.2).sum + trail := by
  simp only [transactionDraws, List.length_append, List.length_flatMap, List.length_replicate]

theorem transactionDraws_succ : transactionDraws setup a1 a2 a3 pulses (trail + 1) =
    transactionDraws setup a1 a2 a3 pulses trail ++ [(false, true)] := by
  simp [transactionDraws, List.replicate_succ']

end

@[simp] theorem length_ticks (draws : List (Level × Level)) : (ticks draws).length = draws.length :=
  List.length_map _

/-! ## The nominal stimulus (R273) -/

/-- The draws of `NOM(frame)` after its START, with `trail` trailing Low samples. -/
def nominalDraws (f : Frame) (trail : Nat) : List (Level × Level) :=
  transactionDraws (List.replicate 2102 (false, true)) 30 80 80 (nominalPulses f) trail

theorem setupTicks_nominal (f : Frame) : setupTicks ++ nominal f = ticks (nominalDraws f 2) := by
  have hsetup : setupTicks = ticks (List.replicate 2102 (false, true)) := lows_eq_ticks 2102
  rw [nominalDraws, ticks_transactionDraws, nominal, hsetup]
  simp only [List.append_assoc]

theorem dropLast_setupTicks_nominal (f : Frame) :
    (.host 0x801 :: setupTicks ++ nominal f).dropLast = .host 0x801 :: ticks (nominalDraws f 1) := by
  rw [List.cons_append, setupTicks_nominal, nominalDraws, transactionDraws_succ, ticks_append, ← List.cons_append]
  exact List.dropLast_concat

/-- Every nominal slot has 104 ticks, and a 1 has 20 more. -/
theorem sum_nominal_slots (bit : Nat → Bool) (slots : List Nat) :
    (slots.map fun i => 54 + if bit i then 70 else 50).sum = 104 * slots.length + 20 * (slots.filter bit).length := by
  induction slots with
  | nil => rfl
  | cons i slots ih =>
    rw [List.map_cons, List.sum_cons, ih]
    cases h : bit i <;> simp [h] <;> omega

theorem length_nominalDraws (f : Frame) (trail : Nat) : (nominalDraws f trail).length =
    6452 + 20 * ((List.range 40).filter fun i => slotBit f i).length + trail := by
  have hsum := sum_nominal_slots (fun i => slotBit f i) (List.range 40)
  rw [List.length_range] at hsum
  rw [nominalDraws, length_transactionDraws, nominalPulses, List.map_map, List.length_replicate]
  exact (congrArg (2102 + 30 + 80 + 80 + · + trail) hsum).trans (by omega)

theorem getElem?_nominalPulses (f : Frame) {i : Nat} (hi : i < 40) :
    (nominalPulses f)[i]? = some (54, if slotBit f i then 70 else 50) := by
  simp [nominalPulses, hi]

theorem nominalPulses_fit (f : Frame) : ∀ p ∈ nominalPulses f, pulsesFit p := by
  intro p hp
  obtain ⟨i, -, rfl⟩ := List.mem_map.1 hp
  cases h : slotBit f i <;> simp [pulsesFit]

/-! ## A frame and its bits (20_memory.md R54) -/

theorem byte_eq_of_bits {x y : Byte} (h : ∀ j < 8, x.getLsbD (7 - j) = y.getLsbD (7 - j)) : x = y :=
  BitVec.eq_of_getLsbD_eq fun i hi => by
    have := h (7 - i) (by omega)
    rwa [Nat.sub_sub_self (by omega)] at this

/-- The 40 slots are all there is in a frame. -/
theorem frame_eq_of_slotBits {f g : Frame} (h : ∀ i < 40, slotBit f i = slotBit g i) : f = g := by
  have hbits : ∀ j < 8, f.b0.getLsbD (7 - j) = g.b0.getLsbD (7 - j) ∧
      f.b1.getLsbD (7 - j) = g.b1.getLsbD (7 - j) ∧ f.b2.getLsbD (7 - j) = g.b2.getLsbD (7 - j) ∧
      f.b3.getLsbD (7 - j) = g.b3.getLsbD (7 - j) ∧ f.b4.getLsbD (7 - j) = g.b4.getLsbD (7 - j) := fun j hj => by
    obtain ⟨f0, f1, f2, f3, f4⟩ := packWritesOneSlot.2 f j hj
    obtain ⟨g0, g1, g2, g3, g4⟩ := packWritesOneSlot.2 g j hj
    rw [← f0, ← f1, ← f2, ← f3, ← f4, ← g0, ← g1, ← g2, ← g3, ← g4]
    exact ⟨h _ (by omega), h _ (by omega), h _ (by omega), h _ (by omega), h _ (by omega)⟩
  simp only [forall₂_and] at hbits
  obtain ⟨h0, h1, h2, h3, h4⟩ := hbits
  cases f
  cases g
  rw [Frame.mk.injEq]
  exact ⟨byte_eq_of_bits h0, byte_eq_of_bits h1, byte_eq_of_bits h2, byte_eq_of_bits h3, byte_eq_of_bits h4⟩

/-- A buffer whose slots decide the nominal pulses of a frame holds that frame. -/
theorem eq_of_decides_nominalPulses {f g : Frame}
    (h : ∀ (i : Nat) (p : Nat × Nat), (nominalPulses f)[i]? = some p → slotBit g i = decide (p.1 < p.2)) :
    g = f :=
  frame_eq_of_slotBits fun i hi => by
    rw [h i _ (getElem?_nominalPulses f hi)]
    cases slotBit f i <;> rfl

/-! ## The bound on every transaction (R272) -/

/-- A run of ticks has completed the transaction or has spent as many ticks of its budget. -/
theorem run_completes_or_within {n : Nat} {s t : State} {draws : List (Level × Level)} (hr : s.rst = false)
    (h : s.st = 0 ∧ s.done = true ∨ CompletesWithin (n + draws.length) s)
    (hrun : runEvents (ticks draws) s = .next t) : t.st = 0 ∧ t.done = true ∨ CompletesWithin n t := by
  induction draws generalizing s with
  | nil => cases hrun; exact h
  | cons d ds ih =>
    obtain ⟨u, hu⟩ := engineStep_next d.1 d.2 s
    have m := engineStep_cases hr hu
    rw [runEvents_tick_of_move ds hr m] at hrun
    refine ih (m.rst.trans hr) ?_ hrun
    rcases h with ⟨hs, hd⟩ | h
    · rw [m.unique (.idle hs)]
      exact .inl ⟨hs, hd⟩
    · exact (h.takeDraws d.1 d.2).move m

/-- Some ticks after an accepted START the transaction is completed or has what is left of N_MAX ticks. -/
theorem run_start_completes_or_within {n : Nat} {s t : State} {draws : List (Level × Level)} (hr : s.rst = false)
    (hs : s.st = 0) (hlen : n + draws.length = nMax)
    (hrun : runEvents (.host 0x801 :: ticks draws) s = .next t) :
    t.st = 0 ∧ t.done = true ∨ CompletesWithin n t :=
  run_completes_or_within (s := acceptStart s) hr (.inr (hlen ▸ completesWithin_acceptStart s))
    ((runEvents_start _ hr hs).symm.trans hrun)

theorem nMax_value : nMax = 18403 := rfl

/-! ## The statements -/

/-- Settles O53: the nominal pulses are well timed, their slots decide the frame's own bits, and before its
completion a transaction has DONE clear. -/
theorem nominalStimulusReadsBackTheFrame : Obligations.NominalStimulusReadsBackTheFrame := by
  rintro s f n1 hr hs rfl
  have hle : ((List.range 40).filter fun i => slotBit f i).length ≤ 40 :=
    (List.length_filter_le ..).trans_eq List.length_range
  have hlen := length_nominalDraws f
  obtain ⟨c, t, hrunc, hc, hrunt, hidle, hdone, hdecided, hok, hbad⟩ :=
    wellTimedTransactionDeliversItsFrame s (List.replicate 2102 (false, true)) 30 80 80 (nominalPulses f) hr hs
      List.length_replicate (fun d hd => by cases hd; rfl) (by decide) (by decide) (by decide) (by decide)
      (by decide) (by simp [nominalPulses]) (nominalPulses_fit f)
  have hbusy : c.st ≠ 0 := by simp [hc]
  rw [start_transactionDraws] at hrunc hrunt
  obtain rfl : t.asm = f := eq_of_decides_nominalPulses hdecided
  refine ⟨?_, ⟨c, ?_, (busy_iff c).2 hbusy, ?_⟩, t, ?_, hidle, hdone, rfl, hok, hbad⟩
  · rw [setupTicks_nominal, length_ticks, hlen]
    omega
  · rw [dropLast_setupTicks_nominal]
    exact hrunc
  · refine (run_start_completes_or_within (n := 18403 - (nominalDraws t.asm 1).length) hr hs ?_ hrunc).elim
      (fun h => absurd h.1 hbusy) CompletesWithin.notDone
    have := hlen 1
    rw [nMax_value, ← nominalDraws]
    omega
  · rw [List.cons_append, setupTicks_nominal]
    exact hrunt

/-- Settles O54: after N_MAX ticks nothing is left of the budget, and a transaction whose pulses are the longest
that pass is in CHECK one tick before. -/
theorem everyTransactionEndsWithinTheBound : Obligations.EveryTransactionEndsWithinTheBound := by
  constructor
  · intro s draws hr hs hlen
    obtain ⟨t, hrun⟩ := runEvents_next (.host 0x801 :: ticks draws) s
    have hend := run_start_completes_or_within (n := 0) hr hs ((Nat.zero_add _).trans hlen) hrun
    refine ⟨18403, t, le_rfl, ?_, hend.resolve_right fun h => absurd h.pos (Nat.lt_irrefl 0)⟩
    rwa [List.take_of_length_le hlen.le]
  · obtain ⟨c, -, hrun, hc, -⟩ :=
      wellTimedTransactionDeliversItsFrame State.reset (List.replicate 2102 (false, true)) 199 90 90
        (List.replicate 40 (199, 199)) rfl rfl List.length_replicate (fun d hd => by cases hd; rfl) (by decide)
        (by decide) (by decide) (by decide) (by decide) List.length_replicate (by simp)
    rw [start_transactionDraws] at hrun
    refine ⟨_, c, ?_, hrun, (busy_iff c).2 (by simp [hc])⟩
    rw [length_transactionDraws, List.length_replicate, List.map_replicate, List.sum_replicate_nat]
    rfl

end Sys2Proof.Machine
